-- ==== Sys2Proof/Word.lean ====
section
/-!
DEFINITION. The bit-vector types of the frame decoder's ports and registers. Their widths are the parameters of rule R8
(LEN_W = 16, DATA_W = 48, TEMP_W = 12, CNT_W = 5) and the field widths of rule R71.
-/
namespace Sys2Proof

/-- One byte of a row. -/
abbrev Byte := BitVec 8

/-- A 4-bit half of a byte (R13). -/
abbrev Nibble := BitVec 4

/-- LEN16: a row length in bits, unsigned (R73, LEN_W of R8). -/
abbrev Len16 := BitVec 16

/-- FRAME48: the first six bytes of a row, byte 0 in bits 47:40 (R51, R71, DATA_W of R8). -/
abbrev Frame48 := BitVec 48

/-- A 12-bit temperature: the sign-magnitude register of the frame (R152) or the two's complement output code (R154,
TEMP_W of R8). -/
abbrev Temp12 := BitVec 12

/-- The CRC bit counter (R24, CNT_W of R8). -/
abbrev Count5 := BitVec 5

/-- RW28: the packed reading word (R74). -/
abbrev Reading28 := BitVec 28

end Sys2Proof
end

