-- ==== Sys2Proof/Config.lean ====
section
/-!
DEFINITION. The constants that rule R7 fixes in the hardware, under the rule's names, and the CRC convention that the
source leaves open and rule R130 decides (93_implementation_defined.md U7, U8). Nothing else of the block is
configurable (R28). MODEL_NAME of R8 is no constant: the host-side record takes it as an argument (Machine/Encoder.lean).
-/
namespace Sys2Proof.Config

/-- MIN_LEN_BITS (R7): the least accepted row length, in bits. -/
def minLenBits : Nat := 48

/-- MARKER (R7): the required value of byte 0. -/
def marker : Byte := 0xFE

/-- CRC_POLY (R7): x^8 + x^5 + x^4 + 1 without its x^8 term. -/
def crcPoly : Byte := 0x31

/-- CRC_INIT (R7). -/
def crcInit : Byte := 0x00

/-- CRC_BYTES (R7): the row bytes the CRC covers, in the order they are fed (R130). -/
def crcBytes : List (Fin 6) := [1, 2, 3, 4]

/-- CRC_BYTE (R7): the row byte that holds the transmitted checksum. -/
def crcByte : Fin 6 := 5

/-- TEMP_DIV (R7): temperature register units per degree Celsius. -/
def tempDiv : Nat := 20

/-- HUM_DIV (R7): raw humidity units per percent. -/
def humDiv : Nat := 2

/-- The three points of the CRC that the source does not state (U7, decision D8): whether bytes are fed least significant
bit first and the register is read out reversed, and what is XORed into the value compared. -/
structure CrcConvention where
  reflect : Bool
  xorOut  : Byte
deriving DecidableEq, Repr

/-- CRC_REFLECT = false and CRC_XOROUT = 0x00: the values rule R130 decides, and the only ones the machine is run with.
UNVERIFIED: rule R130 states them (D8); log entry 3. -/
def crcConvention : CrcConvention := { reflect := false, xorOut := 0x00 }

end Sys2Proof.Config
end

