-- ==== Sys2Proof/Syntax.lean ====
section
/-!
DEFINITION. The block's operation DECODE as an instruction set: one constructor per row of opcode_table.json, which is one
per decode class of rule R77. An operand is a field of FRAME48 (R71) or the row length beside it (LEN16, R73).
-/
namespace Sys2Proof

/-- A decode class with its operands (R77, R103-R105). -/
inductive Instr where
  /-- DECODE.SHORT: a row of fewer than 48 bits; no bit of its data is an operand of any rule, and all of it is kept
  because the capture loads it (R103, R111). -/
  | decodeShort (len : Len16) (data : Frame48)
  /-- DECODE.FOREIGN: a long enough row whose byte 0 is not the marker; `rest` is bytes 1..5 (R104). -/
  | decodeForeign (len : Len16) (m : Byte) (rest : BitVec 40)
  /-- DECODE.FRAME: a long enough row whose byte 0 is the marker, by the fields u, i, t, h and c of R71 (R105). -/
  | decodeFrame (len : Len16) (u : Nibble) (id : Byte) (treg : Temp12) (hum : Byte) (crc : Byte)
deriving DecidableEq, Repr

end Sys2Proof
end

