-- ==== Sys2Proof/WellFormed.lean ====
section
/-!
DEFINITION. Which instruction terms are real decode classes: the selection conditions of rule R77, one check each.
-/
namespace Sys2Proof

/-- The length condition of R77: `LEN_R < 48`, compared as unsigned numbers (R73). -/
def tooShort (len : Len16) : Bool := decide (len.toNat < Config.minLenBits)

/-- R77: DECODE.SHORT needs a short length, the two others a long enough one, and DECODE.FOREIGN a byte 0 that is not the
marker. A DECODE.FRAME term has no marker operand: its byte 0 is the marker. -/
def Instr.wf : Instr → Bool
  | .decodeShort len _           => tooShort len
  | .decodeForeign len m _       => !tooShort len && m != Config.marker
  | .decodeFrame len _ _ _ _ _   => !tooShort len

end Sys2Proof
end

