-- ==== Sys2Proof/Decode.lean ====
section
/-!
DEFINITION. The fields of FRAME48 (R71, R72), the decoder (R77), the encoder written from the same tables, and the decoder
on a bit row given as bytes (R50, R51), which rejects by name a row whose bytes are missing.
-/
namespace Sys2Proof

/-! ## The fields of FRAME48 (R71) -/

/-- Field m, bits 47:40: byte 0. -/
def markerField (w : Frame48) : Byte := w.extractLsb' 40 8

/-- Field u, bits 39:36: byte 1 bits 7:4, read by no field rule. -/
def unusedField (w : Frame48) : Nibble := w.extractLsb' 36 4

/-- Field i, bits 35:28. -/
def idField (w : Frame48) : Byte := w.extractLsb' 28 8

/-- Field t, bits 27:16. -/
def tregField (w : Frame48) : Temp12 := w.extractLsb' 16 12

/-- Field h, bits 15:8: byte 4. -/
def humField (w : Frame48) : Byte := w.extractLsb' 8 8

/-- Field c, bits 7:0: byte 5. -/
def crcField (w : Frame48) : Byte := w.extractLsb' 0 8

/-- Bits 39:0, bytes 1..5: what a foreign row holds beside its byte 0. -/
def restField (w : Frame48) : BitVec 40 := w.extractLsb' 0 40

/-! ## The decoder (R77) -/

/-- The mask of DECODE.FRAME's row in opcode_table.json. -/
def frameMask : Frame48 := 0xFF0000000000

/-- The match value of DECODE.FRAME's row in opcode_table.json. -/
def frameMatch : Frame48 := 0xFE0000000000

/-- R77: "A decoder tests priority 1, then the FRAME pattern, and otherwise takes FOREIGN." Total: no row is illegal (R78). -/
def decode (len : Len16) (data : Frame48) : Instr :=
  if len.toNat < Config.minLenBits then .decodeShort len data
  else if data &&& frameMask = frameMatch then
    .decodeFrame len (unusedField data) (idField data) (tregField data) (humField data) (crcField data)
  else .decodeForeign len (markerField data) (restField data)

/-! ## The encoder -/

/-- The FRAME48 word of a frame, field by field from bit 47 down (R71). -/
def frameWord (u : Nibble) (id : Byte) (treg : Temp12) (hum crc : Byte) : Frame48 :=
  Config.marker ++ u ++ id ++ treg ++ hum ++ crc

/-- The FRAME48 word of a foreign row: byte 0, then bytes 1..5 (R71). -/
def foreignWord (m : Byte) (rest : BitVec 40) : Frame48 := m ++ rest

/-- The row an instruction stands for, as the input ports carry it: `in_len` and `in_data` (R22, R71, R73). -/
def encode : Instr → Len16 × Frame48
  | .decodeShort len data               => (len, data)
  | .decodeForeign len m rest           => (len, foreignWord m rest)
  | .decodeFrame len u id treg hum crc  => (len, frameWord u id treg hum crc)

/-! ## Bit rows as bytes (R50, R51) -/

/-- The six presented bytes as one word, byte 0 in bits 47:40 (R51). -/
def packBytes (b0 b1 b2 b3 b4 b5 : Byte) : Frame48 := b0 ++ b1 ++ b2 ++ b3 ++ b4 ++ b5

/-- Byte `i` of the row in a word: bits `47-8i : 40-8i` (R11, R51). -/
def rowByte (w : Frame48) (i : Fin 6) : Byte := w.extractLsb' (40 - 8 * i.val) 8

/-- The source's bit row: a length in bits and the bytes that hold it, in transmission order, most significant bit first
(R10, R13). It may be longer than six bytes (R50). -/
structure BitRow where
  lenBits : Nat
  bytes   : List Byte
deriving DecidableEq, Repr

/-- The bytes supplied hold every bit the row declares. So a row of 48 bits or more has its byte 5 (conflict C7). -/
def BitRow.wf (r : BitRow) : Bool := decide (r.lenBits ≤ 8 * r.bytes.length)

/-- The length a producer presents: a row longer than 65535 bits presents 65535 (D4). -/
def presentedLen (lenBits : Nat) : Len16 := BitVec.ofNat 16 (min lenBits 65535)

/-- Byte `i` a producer presents: the row's, or where the row has none whatever the producer drives there, `pad`'s (R53). -/
def BitRow.presentedByte (r : BitRow) (pad : Frame48) (i : Fin 6) : Byte := (r.bytes[i.val]?).getD (rowByte pad i)

/-- What a producer presents for a bit row: the saturated length and the first six bytes. Bytes 6 and above are not
presented (R50, D3). -/
def BitRow.present (r : BitRow) (pad : Frame48) : Len16 × Frame48 :=
  (presentedLen r.lenBits,
    packBytes (r.presentedByte pad 0) (r.presentedByte pad 1) (r.presentedByte pad 2) (r.presentedByte pad 3)
      (r.presentedByte pad 4) (r.presentedByte pad 5))

/-- Why a sequence of bytes is no bit row. -/
inductive DecodeError where
  /-- The row declares more bits than its bytes hold. The block cannot be offered such a row: its ports always carry six
  bytes (R22, C7). Safe: nothing is decoded. -/
  | missingBytes
deriving DecidableEq, Repr

/-- The decoder on a bit row given as bytes: total, and rejecting by name. -/
def decodeBitRow (r : BitRow) (pad : Frame48) : Except DecodeError Instr :=
  if r.wf then .ok (decode (r.present pad).1 (r.present pad).2) else .error .missingBytes

/-- The decoder on a word of opcode_table.json. The table numbers FRAME48's bits as R71 does and gives the length no bits
(R73, R79: it is carried beside the data), so the row's length is the `nbits` the word has. No FRAME48 word is wider than
48 bits. DESIGN CHOICE, log entry 8. -/
def decodeTableWord (nbits w : Nat) : Option Instr :=
  if w < 2 ^ 48 then some (decode (presentedLen nbits) (BitVec.ofNat 48 w)) else none

end Sys2Proof
end

