-- ==== Sys2Proof/Machine/State.lean ====
section
/-!
DEFINITION. The state of the block: the ten internal registers of rule R24 and, as plain data, the levels its environment
drives on the input ports at the coming clock edges (R22). Reset values are those of R24 and R230.
-/
namespace Sys2Proof.Machine

/-- ST3: the state-machine states (R76). -/
inductive St3 where
  | idle | chkLen | chkMark | crcRun | chkCrc | extract | result | unused
deriving DecidableEq, Repr

/-- RSN2: the reject reasons (R75). -/
inductive Reason where
  | none | short | marker | crc
deriving DecidableEq, Repr

/-- The levels on the input ports at one rising edge of `clk` (R22): they "are those held in the cycle before it"
(95_test_vectors.md section 3). -/
structure Pins where
  rst      : Bool
  inValid  : Bool
  inLen    : Len16
  inData   : Frame48
  outReady : Bool
deriving DecidableEq, Repr

/-- No reset, no row offered, no consumer ready: the levels past the end of a list of coming edges. DESIGN CHOICE, log
entry 2. -/
def Pins.quiet : Pins := { rst := false, inValid := false, inLen := 0, inData := 0, outReady := false }

/-- A producer offering a row, nothing else asserted. -/
def Pins.offer (len : Len16) (data : Frame48) : Pins :=
  { rst := false, inValid := true, inLen := len, inData := data, outReady := false }

/-- The block's registers, under the names of R24, and the input levels of the coming edges. -/
structure State where
  /-- `state`: the sequencer (R26). -/
  state   : St3
  /-- `FRAME_R`: the first six bytes of the captured row. -/
  frameR  : Frame48
  /-- `LEN_R`: the captured row length in bits. -/
  lenR    : Len16
  /-- `CRC_R`: the running CRC-8 remainder. -/
  crcR    : Byte
  /-- `CNT`: the index of the next CRC bit. -/
  cnt     : Count5
  /-- `OUT_ACC`: the accept flag. -/
  outAcc  : Bool
  /-- `OUT_RSN`: the reject reason. -/
  outRsn  : Reason
  /-- `OUT_ID`. -/
  outId   : Byte
  /-- `OUT_TEMP`: two's complement, in 1/20 degree Celsius (R154). -/
  outTemp : Temp12
  /-- `OUT_HUM`. -/
  outHum  : Byte
  /-- The environment: the input levels at the coming edges, soonest first; past its end they are quiet. The model's own
  field, log entry 2. -/
  pins    : List Pins
deriving DecidableEq, Repr

/-- The block after a reset edge: every register at its value of R24 and R230, and no input scheduled. -/
def State.reset : State where
  state   := .idle
  frameR  := 0
  lenR    := 0
  crcR    := 0
  cnt     := 0
  outAcc  := false
  outRsn  := .none
  outId   := 0
  outTemp := 0
  outHum  := 0
  pins    := []

/-- The block has no fault: "The block raises no synchronous exception, trap or fault" (R200, R202, R213). No constructor, so
that no step can answer one; safe. -/
inductive Fault where
deriving DecidableEq, Repr

/-- The block refuses no row (R78, R213). -/
inductive Refusal where
  /-- An arm of `exec` with no meaning yet; no arm raises it. Safe: the machine stops. -/
  | notModelled (mnemonic : String)
deriving DecidableEq, Repr

end Sys2Proof.Machine
end

