-- ==== Sys2Proof/Machine/Operands.lean ====
section
/-!
DEFINITION. How operands are read from the captured row (R10, R51, R121), the field formulas of the source (R151, R152,
R156), the sign-magnitude decoding (R153) and the temperature code (R154), and the codes of ST3 and RSN2 (R75, R76).
-/
namespace Sys2Proof.Machine

/-- Row bit `k`, 0 the first transmitted: bit `7 - (k mod 8)` of byte `k div 8` (R10). Bits past the presented row read 0;
no rule reads one (R54). -/
def rowBit (w : Frame48) (k : Nat) : Bool :=
  if h : k / 8 < 6 then (rowByte w ⟨k / 8, h⟩).getLsbD (7 - k % 8) else false

/-- Row bits `lo, lo+1, …`, `n` of them, in transmission order (R10). -/
def rowBits (w : Frame48) (lo n : Nat) : List Bool := (List.range n).map fun j => rowBit w (lo + j)

/-- R151, the source's formula: the low nibble of byte 1, then the high nibble of byte 2 (conflict C1). -/
def idOf (w : Frame48) : Byte := ((rowByte w 1 &&& 0x0F) <<< 4) ||| ((rowByte w 2 &&& 0xF0) >>> 4)

/-- R152, the source's formula: byte 3, and the low nibble of byte 2 above it. -/
def tregOf (w : Frame48) : Temp12 :=
  (rowByte w 3).setWidth 12 ||| (((rowByte w 2 &&& 0x0F).setWidth 12) <<< 8)

/-- R156: byte 4 unchanged. -/
def humOf (w : Frame48) : Byte := rowByte w 4

/-- The magnitude of a sign-magnitude register: bit 11 cleared (R153). -/
def magnitude (r : Temp12) : Nat := (r &&& 0x7FF).toNat

/-- R153: bit 11 negates the 11-bit magnitude. Negative zero is the integer 0 (D14). -/
def sm12 (r : Temp12) : Int := if r.getLsbD 11 then -(magnitude r : Int) else (magnitude r : Int)

/-- R154: a signed integer modulo 4096, its 12-bit two's complement code. -/
def tempCode (t : Int) : Temp12 := BitVec.ofInt 12 t

/-- R182: the integer a temperature code stands for, `code - 4096` when bit 11 is set. -/
def tempOfCode (c : Temp12) : Int := if c.getLsbD 11 then (c.toNat : Int) - 4096 else (c.toNat : Int)

/-- R81: the sign-magnitude register the frame builder writes for an integer; 0 is always built as 0x000. -/
def tregOfTemp (t : Int) : Temp12 :=
  if 0 ≤ t then BitVec.ofNat 12 t.toNat else 0x800 ||| BitVec.ofNat 12 (-t).toNat

/-! ## Codes -/

/-- ST3 (R76). -/
def St3.code : St3 → BitVec 3
  | .idle => 0b000 | .chkLen => 0b001 | .chkMark => 0b010 | .crcRun => 0b011
  | .chkCrc => 0b100 | .extract => 0b101 | .result => 0b110 | .unused => 0b111

/-- ST3 read back: every 3-bit code names one state (R76). -/
def St3.ofCode (c : BitVec 3) : St3 :=
  match c.toNat with
  | 0 => .idle | 1 => .chkLen | 2 => .chkMark | 3 => .crcRun
  | 4 => .chkCrc | 5 => .extract | 6 => .result | _ => .unused

/-- RSN2 (R75). -/
def Reason.code : Reason → BitVec 2
  | .none => 0b00 | .short => 0b01 | .marker => 0b10 | .crc => 0b11

/-- RSN2 read back: all four codes are used, none is reserved (R75). -/
def Reason.ofCode (c : BitVec 2) : Reason :=
  match c.toNat with
  | 0 => .none | 1 => .short | 2 => .marker | _ => .crc

/-- The three rejection causes (R201). -/
inductive Cause where
  | short | marker | crc
deriving DecidableEq, Repr

/-- What a cause leaves in OUT_RSN (R75, R108). -/
def Cause.reason : Cause → Reason
  | .short => .short | .marker => .marker | .crc => .crc

end Sys2Proof.Machine
end

