-- ==== Sys2Proof/Machine/Flags.lean ====
section
/-!
DEFINITION. The conditions that decide a row's outcome, which are all the block's flag computations (R27): the length and
marker checks (R103, R104), the CRC-8 in its bytewise and bit-serial forms (R130-R132) and the checksum check (R135).
-/
namespace Sys2Proof.Machine

open Sys2Proof.Config (CrcConvention)

/-! ## The bit-serial form (R132) -/

/-- R132: one bit into the CRC register, most significant bit of the register out. -/
def crcStep (c : Byte) (b : Bool) : Byte :=
  if c.msb ^^ b then (c <<< 1) ^^^ Config.crcPoly else c <<< 1

/-- The bits `bs` into the CRC register `c`, first bit first (R134). -/
def crcFold (c : Byte) (bs : List Bool) : Byte := bs.foldl crcStep c

/-- The row bit that the CRC engine takes when its counter is `cnt` (R114): row bit `8 + cnt`, `FRAME_R[39 - CNT]`; with a
reflected convention the bits of each byte come in the other order (U7). -/
def crcInputBit (v : CrcConvention) (w : Frame48) (cnt : Count5) : Bool :=
  w.getLsbD (39 - (if v.reflect then cnt ^^^ 7 else cnt).toNat)

/-! ## The bytewise form (R131) -/

/-- One of the eight repeats of R131. -/
def crcShift (c : Byte) : Byte := if c.msb then (c <<< 1) ^^^ Config.crcPoly else c <<< 1

/-- R131's "repeat n times". -/
def crcShifts : Nat → Byte → Byte
  | 0, c => c
  | n + 1, c => crcShifts n (crcShift c)

/-- One byte into the CRC register: XOR, then eight shifts (R131); a reflected convention feeds the byte reversed (U7). -/
def crcByteStep (v : CrcConvention) (c b : Byte) : Byte := crcShifts 8 (c ^^^ if v.reflect then b.reverse else b)

/-- The register after the bytes `bs`, from CRC_INIT (R131). -/
def crcRegister (v : CrcConvention) (bs : List Byte) : Byte := bs.foldl (crcByteStep v) Config.crcInit

/-- The value compared with the checksum byte: the register, reversed by a reflected convention, XORed with the final
constant (U7). Under the convention of R130 it is the register itself. -/
def crcValue (v : CrcConvention) (c : Byte) : Byte := (if v.reflect then c.reverse else c) ^^^ v.xorOut

/-- The bytes of a row that the CRC covers, in order (R130). -/
def crcCovered (w : Frame48) : List Byte := Config.crcBytes.map (rowByte w)

/-- R131: `CRC8(b1, b2, b3, b4)`. -/
def crc8 (b1 b2 b3 b4 : Byte) : Byte := crcValue Config.crcConvention (crcRegister Config.crcConvention [b1, b2, b3, b4])

/-! ## The three checks -/

/-- R103, R112: the row is too short. -/
def lenFails (len : Len16) : Bool := decide (len.toNat < Config.minLenBits)

/-- R104, R113: byte 0, all eight bits, is not the marker. -/
def markerFails (w : Frame48) : Bool := rowByte w 0 != Config.marker

/-- R115: the register `c` does not give the checksum byte of the row. -/
def checksumFails (c : Byte) (w : Frame48) : Bool := crcValue Config.crcConvention c != rowByte w Config.crcByte

/-- The CRC register after bytes 1..4 of a row. -/
def rowCrc (w : Frame48) : Byte := crcRegister Config.crcConvention (crcCovered w)

/-- R135: a row fails the integrity check. -/
def crcFails (w : Frame48) : Bool := checksumFails (rowCrc w) w

end Sys2Proof.Machine
end

