-- ==== Sys2Proof/Machine/Ops.lean ====
section
/-!
DEFINITION. The named operations on the state: reading the input levels, letting edges pass, and the register writes of the
arms. `State.reject` is the one operation that every rejection takes: the block has no exception entry, and the reject step
stands where an instruction set has one (R11, R108, R205).
-/
namespace Sys2Proof.Machine

/-- The input levels at the next rising edge. -/
def State.nextPins (s : State) : Pins := s.pins.headD Pins.quiet

/-- `n` edges of input levels pass. -/
def State.elapse (s : State) (n : Nat) : State := { s with pins := s.pins.drop n }

/-- R230: every register takes its reset value. The input levels are the environment's and go on. -/
def State.toReset (s : State) : State := { State.reset with pins := s.pins }

/-- R111: the input handshake loads the row, all 64 bits at one edge (R55). -/
def State.capture (s : State) (len : Len16) (data : Frame48) : State :=
  { s with frameR := data, lenR := len, state := .chkLen }

/-- R108: the step that ends a decode with a rejection. -/
def State.reject (s : State) (c : Cause) : State :=
  { s with outAcc := false, outRsn := c.reason, outId := 0x00, outTemp := 0x000, outHum := 0x00, state := .result }

/-- R116: the reading write. All five result registers are written at one edge, the temperature as its two's complement
code (R154). -/
def State.accept (s : State) (id : Byte) (temp : Int) (hum : Byte) : State :=
  { s with outAcc := true, outRsn := .none, outId := id, outTemp := tempCode temp, outHum := hum, state := .result }

/-- CRC_R and CNT are written (R113, R114). -/
def State.setCrc (s : State) (c : Byte) (n : Count5) : State := { s with crcR := c, cnt := n }

/-- The next-state assignment `state <- S` (R11). -/
def State.goto (s : State) (t : St3) : State := { s with state := t }

end Sys2Proof.Machine
end

