-- ==== Sys2Proof/Machine/Timing.lean ====
section
/-!
DEFINITION. The latencies of rule R240 and the operation over them that the decode classes share. The state machine of
Machine/Fsm.lean is what the numbers are counted on; no register of the block holds one (R208).
-/
namespace Sys2Proof.Machine

/-- R240: edges after the input handshake until `state = RESULT`: SHORT 1, MARKER 2, CRC 35, ACCEPT 36. -/
def latency : Instr → Nat
  | .decodeShort _ _                   => 1
  | .decodeForeign _ _ _               => 2
  | .decodeFrame _ u id treg hum crc   => if crcFails (frameWord u id treg hum crc) then 35 else 36

/-- The row is captured at its input handshake and `n` further edges pass (R111, R240). -/
def State.takeRow (s : State) (n : Nat) (len : Len16) (data : Frame48) : State := (s.elapse (1 + n)).capture len data

end Sys2Proof.Machine
end

