-- ==== Sys2Proof/Machine/Validation.lean ====
section
/-!
DEFINITION. The meanings of the three decode classes (R103-R105), each one whole decode: the row is captured at its input
handshake, checked, and its result stands in RESULT. This is the transaction level that rule R119 allows; the edges it is
made of are Machine/Fsm.lean. Every class is modelled in full and none faults or refuses (R200).
-/
namespace Sys2Proof.Machine

/-- DECODE.SHORT (R103): reject(SHORT) in CHK_LEN. CRC_R and CNT are not reached, so they keep their values. -/
def execShort (len : Len16) (data : Frame48) (s : State) : Host.Outcome State Fault Refusal :=
  .next ((s.takeRow (latency (.decodeShort len data)) len data).reject .short)

/-- DECODE.FOREIGN (R104): reject(MARKER) in CHK_MARK. CRC_R and CNT are not reached, so they keep their values. -/
def execForeign (len : Len16) (m : Byte) (rest : BitVec 40) (s : State) : Host.Outcome State Fault Refusal :=
  .next ((s.takeRow (latency (.decodeForeign len m rest)) len (foreignWord m rest)).reject .marker)

/-- DECODE.FRAME (R105): the CRC of bytes 1..4 is left in CRC_R with CNT at 0 (R114); a mismatch with byte 5 is
reject(CRC), a match is the reading write (R116). -/
def execFrame (len : Len16) (u : Nibble) (id : Byte) (treg : Temp12) (hum crc : Byte) (s : State) :
    Host.Outcome State Fault Refusal :=
  let w := frameWord u id treg hum crc
  let t := (s.takeRow (latency (.decodeFrame len u id treg hum crc)) len w).setCrc (rowCrc w) 0
  .next (if crcFails w then t.reject .crc else t.accept id (sm12 treg) hum)

end Sys2Proof.Machine
end

