-- ==== Sys2Proof/Machine/Dispatch.lean ====
section
/-!
DEFINITION. One arm per decode class of rule R77.
-/
namespace Sys2Proof.Machine

def exec (i : Instr) (s : State) : Host.Outcome State Fault Refusal :=
  match i with
  | .decodeShort len data => Sys2Proof.Machine.execShort len data s
  | .decodeForeign len m rest => Sys2Proof.Machine.execForeign len m rest s
  | .decodeFrame len u id treg hum crc => Sys2Proof.Machine.execFrame len u id treg hum crc s

end Sys2Proof.Machine
end

