-- ==== Sys2Proof/Machine/Fsm.lean ====
section
/-!
DEFINITION. The clocked state machine, one definition per arm of rules R111-R118, the rising edge with its reset (R110,
R230), and the output drivers (R25). A register that an arm does not write keeps its value (R11).
-/
namespace Sys2Proof.Machine

/-- R111, state IDLE: capture when a row is offered. -/
def armIdle (p : Pins) (s : State) : State := if p.inValid then s.capture p.inLen p.inData else s.goto .idle

/-- R112, state CHK_LEN. -/
def armChkLen (s : State) : State := if lenFails s.lenR then s.reject .short else s.goto .chkMark

/-- R113, state CHK_MARK: the marker check and the CRC set-up. -/
def armChkMark (s : State) : State :=
  if markerFails s.frameR then s.reject .marker else (s.setCrc Config.crcInit 0).goto .crcRun

/-- R114, state CRC_RUN: one CRC bit; the counter steps modulo 32. -/
def armCrcRun (s : State) : State :=
  (s.setCrc (crcStep s.crcR (crcInputBit Config.crcConvention s.frameR s.cnt)) (s.cnt + 1)).goto
    (if s.cnt = 31 then .chkCrc else .crcRun)

/-- R115, state CHK_CRC. -/
def armChkCrc (s : State) : State := if checksumFails s.crcR s.frameR then s.reject .crc else s.goto .extract

/-- R116, state EXTRACT. -/
def armExtract (s : State) : State := s.accept (idOf s.frameR) (sm12 (tregOf s.frameR)) (humOf s.frameR)

/-- R117, state RESULT: wait for the consumer. -/
def armResult (p : Pins) (s : State) : State := if p.outReady then s.goto .idle else s.goto .result

/-- R118, the unused code 0b111. The spec also lets a model treat reaching it as a fault (U3, D15); log entry 4. -/
def armUnused (s : State) : State := s.goto .idle

/-- The arm of the current state (R110). -/
def arm (p : Pins) (s : State) : State :=
  match s.state with
  | .idle    => armIdle p s
  | .chkLen  => armChkLen s
  | .chkMark => armChkMark s
  | .crcRun  => armCrcRun s
  | .chkCrc  => armChkCrc s
  | .extract => armExtract s
  | .result  => armResult p s
  | .unused  => armUnused s

/-- One rising edge of `clk` (R20, R110): reset overrides every arm (R230). -/
def edge (s : State) : State :=
  let p := s.nextPins
  let t := s.elapse 1
  if p.rst then t.toReset else arm p t

/-- `n` rising edges. -/
def edges : Nat → State → State
  | 0, s => s
  | n + 1, s => edges n (edge s)

/-! ## The output ports -/

/-- The output ports (R22). -/
structure OutPorts where
  inReady   : Bool
  outValid  : Bool
  outAccept : Bool
  outReason : BitVec 2
  outId     : Byte
  outTemp   : Temp12
  outHum    : Byte
deriving DecidableEq, Repr

/-- R25: the outputs, driven from registers alone (R20). -/
def State.outputs (s : State) : OutPorts where
  inReady   := s.state == .idle
  outValid  := s.state == .result
  outAccept := s.outAcc
  outReason := s.outRsn.code
  outId     := s.outId
  outTemp   := s.outTemp
  outHum    := s.outHum

end Sys2Proof.Machine
end

