-- ==== Sys2Proof/Machine/Fetch.lean ====
section
/-!
DEFINITION. How the block comes to a row: the input handshake at the next edge (R21, R111), and the reset that abandons a
transaction in flight (R232). There is no instruction memory and no program counter (R26, R50): the row comes from the ports.
-/
namespace Sys2Proof.Machine

/-- R21: the next edge is an input handshake; `rst = 1` overrides it (R230). -/
def State.inputHandshake (s : State) : Bool := s.state == .idle && s.nextPins.inValid && !s.nextPins.rst

/-- R21: the next edge is a result handshake; `rst = 1` at that very edge abandons it (R232). -/
def State.resultHandshake (s : State) : Bool := s.state == .result && s.nextPins.outReady && !s.nextPins.rst

/-- The decode class that the next edge captures, if that edge is an input handshake. -/
def State.offered (s : State) : Option Instr :=
  if s.inputHandshake then some (decode s.nextPins.inLen s.nextPins.inData) else none

/-- The index of the first reset edge among the first `n` of a list of coming edges. -/
def firstReset : Nat → List Pins → Option Nat
  | 0, _ => none
  | _ + 1, [] => none
  | n + 1, p :: ps => if p.rst then some 0 else (firstReset n ps).map (· + 1)

/-- The reset edge, if any, that abandons the decode of `i` when its input handshake is the next edge: an index counted
from the edge after the handshake (R232). -/
def State.abandonedAt (s : State) (i : Instr) : Option Nat := firstReset (latency i) (s.pins.drop 1)

/-- R232: the transaction is abandoned at that reset edge; the handshake edge, `k` edges and the reset edge have passed. -/
def State.abandon (s : State) (k : Nat) : State := (s.elapse (k + 2)).toReset

/-- The row a word of the opcode table is offered as: its length is its number of bits (`decodeTableWord`, log entry 8). -/
def tablePins (nbits w : Nat) : Pins := Pins.offer (presentedLen nbits) (BitVec.ofNat 48 w)

/-- The environment offers row `p` at the next edge to an idle block, and no reset is asserted at a later edge: what it takes
for the next step to be exactly that row's decode. -/
def State.offer (s : State) (p : Pins) : State :=
  { s with state := .idle, pins := p :: s.pins.map fun q => { q with rst := false } }

end Sys2Proof.Machine
end

