-- ==== Sys2Proof/Machine/Step.lean ====
section
/-!
DEFINITION. One step. At an input handshake it is the whole decode of the row taken, from the handshake edge to RESULT (R119)
or to the reset edge that abandons it (R232); at any other edge, waits included, it is that one edge of the state machine.
-/
namespace Sys2Proof.Machine

/-- One step of the block; log entry 1. -/
def step (s : State) : Host.Outcome State Fault Refusal :=
  match s.offered with
  | none => .next (edge s)
  | some i =>
    match s.abandonedAt i with
    | some k => .next (s.abandon k)
    | none => exec i s

/-- `s` with a table word's row offered at the next edge; log entry 8. -/
def State.withFetchWord (s : State) (nbits w : Nat) : State := s.offer (tablePins nbits w)

end Sys2Proof.Machine
end

