-- ==== Sys2Proof/Machine/Contract.lean ====
section
/-!
DEFINITION. The decode function that the source specifies (R100-R102), which is normative for the state machine (R119); what
it puts on the result ports; and the frame-building pseudo-operation (R81). `step` does not use this file: it is the
contract that statements hold `step` to.
-/
namespace Sys2Proof.Machine

/-- What one call of the decode function returns (R101). -/
inductive Decoded where
  | reject (c : Cause)
  | accept (id : Byte) (temp : Int) (hum : Byte)
deriving DecidableEq, Repr

/-- R101: the three checks in their fixed order, the first failure deciding (R102), then the fields. -/
def decodeRow (l : Len16) (w : Frame48) : Decoded :=
  if l.toNat < Config.minLenBits then .reject .short
  else if rowByte w 0 ≠ Config.marker then .reject .marker
  else if crc8 (rowByte w 1) (rowByte w 2) (rowByte w 3) (rowByte w 4) ≠ rowByte w 5 then .reject .crc
  else .accept (idOf w) (sm12 (tregOf w)) (humOf w)

/-- The five result outputs as they stand at a result handshake (R29). -/
structure ResultPorts where
  accept : Bool
  reason : Reason
  id     : Byte
  temp   : Temp12
  hum    : Byte
deriving DecidableEq, Repr

/-- R101: the port values of each case of the decode function; a reject zeroes the reading (D13). -/
def Decoded.ports : Decoded → ResultPorts
  | .reject c => { accept := false, reason := c.reason, id := 0x00, temp := 0x000, hum := 0x00 }
  | .accept id temp hum => { accept := true, reason := .none, id := id, temp := tempCode temp, hum := hum }

/-- R240: the edges from the input handshake to `state = RESULT`, by outcome. -/
def Decoded.latency : Decoded → Nat
  | .reject .short => 1
  | .reject .marker => 2
  | .reject .crc => 35
  | .accept _ _ _ => 36

/-- The five result registers, which drive the result outputs (R25). They are a result only in RESULT (U2). -/
def State.resultPorts (s : State) : ResultPorts where
  accept := s.outAcc
  reason := s.outRsn
  id     := s.outId
  temp   := s.outTemp
  hum    := s.outHum

/-- The result the block offers: nothing outside `out_valid = 1` (R25, R237). -/
def State.offeredResult (s : State) : Option ResultPorts := if s.state = .result then some s.resultPorts else none

/-- R81: `FRAME(id, T, h, u)`, byte by byte as the rule writes it. `T` is meant in -2047..+2047. -/
def buildFrame (id : Byte) (t : Int) (h : Byte) (u : Nibble) : Frame48 :=
  let treg := tregOfTemp t
  let b1 := (u.setWidth 8 <<< 4) ||| (id >>> 4)
  let b2 := ((id &&& 0x0F) <<< 4) ||| (treg.extractLsb' 8 4).setWidth 8
  let b3 := treg.extractLsb' 0 8
  packBytes Config.marker b1 b2 b3 h (crc8 b1 b2 b3 h)

end Sys2Proof.Machine
end

