-- ==== Sys2Proof/Machine/Encoder.lean ====
section
/-!
DEFINITION. The sensor-reading encoder: the reading word (R74, R180), the source's SensorReading in exact rationals (R182,
R183), the record handed to the reporting collaborator (R184-R186), and the textual form of a transaction (R80). The record
and the text are host-side: no port carries a string.
-/
namespace Sys2Proof.Machine

/-- RW28 (R74): `{out_id, out_temp, out_hum}`. -/
def ResultPorts.readingWord (r : ResultPorts) : Reading28 := r.id ++ r.temp ++ r.hum

/-- The source's SensorReading (R13, R182). -/
structure SensorReading where
  id                 : Nat
  temperatureCelsius : Rat
  humidityPercent    : Rat
deriving DecidableEq, Repr

/-- R182, and R181: only an accepted result is a reading. -/
def ResultPorts.reading (r : ResultPorts) : Option SensorReading :=
  if r.accept then
    some { id := r.id.toNat
           temperatureCelsius := (tempOfCode r.temp : Rat) / (Config.tempDiv : Rat)
           humidityPercent := (r.hum.toNat : Rat) / (Config.humDiv : Rat) }
  else none

/-- Two decimal digits (R185). -/
def twoDigits (n : Nat) : String := (if n < 10 then "0" else "") ++ Nat.repr n

/-- The integer degrees of R185. -/
def tempIntPart (t : Int) : Nat := t.natAbs / 20

/-- The hundredths of R185. -/
def tempHundredths (t : Int) : Nat := t.natAbs % 20 * 5

/-- R185. -/
def renderTemp (t : Int) : String :=
  (if t < 0 then "-" else "") ++ Nat.repr (tempIntPart t) ++ "." ++ twoDigits (tempHundredths t)

/-- R186. -/
def renderHum (h : Nat) : String := Nat.repr (h / 2) ++ "." ++ (if h % 2 = 1 then "5" else "0")

/-- R184: the record of an accepted result, its fields in this order. No timestamp: the collaborator attaches it. -/
structure Record where
  model       : String
  id          : Nat
  temperature : String
  humidity    : String
deriving DecidableEq, Repr

/-- R184: one record for an accepted result, none for a rejected one. MODEL_NAME is open (R8, D21), so it is an argument. -/
def ResultPorts.record (modelName : String) (r : ResultPorts) : Option Record :=
  if r.accept then
    some { model := modelName, id := r.id.toNat, temperature := renderTemp (tempOfCode r.temp),
           humidity := renderHum r.hum.toNat }
  else none

/-- The record's keys and values, in the order of R184. -/
def Record.fields (r : Record) : List (String × String) :=
  [("model", r.model), ("id", Nat.repr r.id), ("temperature_C", r.temperature), ("humidity", r.humidity)]

/-! ## The textual form of a transaction (R80) -/

/-- One hexadecimal digit. -/
def hexDigit (n : Nat) : Char := if n < 10 then Char.ofNat (48 + n) else Char.ofNat (55 + n)

/-- A byte in two hexadecimal digits. -/
def hexByte (b : Byte) : String := String.ofList [hexDigit (b.toNat / 16), hexDigit (b.toNat % 16)]

/-- R80: a transaction, byte 0 first. The data of a short row is always written out; log entry 9. -/
def transactionText (len : Len16) (data : Frame48) : String :=
  "DECODE len=" ++ Nat.repr len.toNat ++ " data=" ++
    String.intercalate " " ((List.finRange 6).map fun i => hexByte (rowByte data i))

/-- A signed decimal: "+470", "-50", "0" (R80, log entry 9). -/
def signedText (t : Int) : String := (if 0 < t then "+" else if t < 0 then "-" else "") ++ Nat.repr t.natAbs

/-- The name of a cause (R75, R80). -/
def Cause.text : Cause → String
  | .short => "SHORT" | .marker => "MARKER" | .crc => "CRC"

/-- R80: the answer to a transaction. -/
def Decoded.text : Decoded → String
  | .reject c => "REJECT " ++ c.text
  | .accept id temp hum =>
    "ACCEPT id=0x" ++ hexByte id ++ " temp=" ++ signedText temp ++ " hum=" ++ Nat.repr hum.toNat

end Sys2Proof.Machine
end

