-- ==== Sys2Proof/Safety.lean ====
section
/-!
DEFINITION. The terms of claims about runs: the invariant of the state machine, the events at the ports, and what a good
sequence of events is.
-/
namespace Sys2Proof.Machine

/-- The row in the registers passed the length check. -/
abbrev State.lenPassed (s : State) : Prop := 48 ≤ s.lenR.toNat

/-- The row in the registers passed the marker check. -/
abbrev State.markerPassed (s : State) : Prop := rowByte s.frameR 0 = Config.marker

/-- What holds in each state of the sequencer (R110-R118, R134): which checks the captured row has passed, how far the CRC
has come, and, in RESULT, that the result registers are what the decode function gives for the row (R101, R119). -/
def State.phaseInv (s : State) : Prop :=
  match s.state with
  | .idle    => True
  | .chkLen  => True
  | .chkMark => s.lenPassed
  | .crcRun  => s.lenPassed ∧ s.markerPassed ∧ s.crcR = crcFold Config.crcInit (rowBits s.frameR 8 s.cnt.toNat)
  | .chkCrc  => s.lenPassed ∧ s.markerPassed ∧
      s.crcR = crc8 (rowByte s.frameR 1) (rowByte s.frameR 2) (rowByte s.frameR 3) (rowByte s.frameR 4)
  | .extract => s.lenPassed ∧ s.markerPassed ∧
      crc8 (rowByte s.frameR 1) (rowByte s.frameR 2) (rowByte s.frameR 3) (rowByte s.frameR 4) = rowByte s.frameR 5
  | .result  => s.resultPorts = (decodeRow s.lenR s.frameR).ports
  | .unused  => False

/-- The invariant of the block, true of the reset state and kept by every edge and every step. -/
structure Inv (s : State) : Prop where
  /-- Each state's own facts; the unused code never stands (R118). -/
  phase : s.phaseInv
  /-- CNT is 0 outside CRC_RUN (R113, R114). -/
  counter : s.state ≠ .crcRun → s.cnt = 0
  /-- An accept flag comes with reason NONE (R75). -/
  acceptReason : s.outAcc = true → s.outRsn = .none
  /-- Without the accept flag no reading stands in the registers (R106, D13). -/
  noReading : s.outAcc = false → s.outId = 0 ∧ s.outTemp = 0 ∧ s.outHum = 0
  /-- The temperature code 0x800 never occurs (R74, R154). -/
  tempCode : s.outTemp ≠ 0x800

/-- What happens at the ports at one edge (R21, R230). -/
inductive Event where
  | reset
  /-- An input handshake, with the row taken. -/
  | taken (len : Len16) (data : Frame48)
  /-- A result handshake, with the result given. -/
  | given (r : ResultPorts)
deriving DecidableEq, Repr

/-- The event at the next edge, if there is one: an edge with `rst = 1` is a reset and nothing else (R204, R230, R232). -/
def State.event (s : State) : Option Event :=
  if s.nextPins.rst then some .reset
  else if s.inputHandshake then some (.taken s.nextPins.inLen s.nextPins.inData)
  else if s.resultHandshake then some (.given s.resultPorts)
  else none

/-- The events of the next `n` edges, in order. -/
def events : Nat → State → List Event
  | 0, _ => []
  | n + 1, s => s.event.toList ++ events n (edge s)

/-- A good sequence of events, seen from an idle block: each row taken is answered by one result before the next is taken,
and by the decode function's result for that row, unless a reset comes first, which drops the row (R21, R59, R106, R232).
The last row may still be in flight. -/
def wellPaired : List Event → Bool
  | [] => true
  | .reset :: es => wellPaired es
  | .given _ :: _ => false
  | .taken _ _ :: [] => true
  | .taken _ _ :: .reset :: es => wellPaired es
  | .taken len data :: .given r :: es => decide (r = (decodeRow len data).ports) && wellPaired es
  | .taken _ _ :: .taken _ _ :: _ => false

/-- No reset among the next `n` edges. -/
abbrev State.noResetFor (s : State) (n : Nat) : Prop := ∀ p ∈ s.pins.take n, p.rst = false

/-- The consumer is not ready at any of the next `n` edges. -/
abbrev State.consumerHolds (s : State) (n : Nat) : Prop := ∀ p ∈ s.pins.take n, p.outReady = false

/-- The next edge is an input handshake that takes the row `len`, `data` (R21). -/
abbrev State.takes (s : State) (len : Len16) (data : Frame48) : Prop :=
  s.state = .idle ∧ s.nextPins.rst = false ∧ s.nextPins.inValid = true ∧ s.nextPins.inLen = len ∧ s.nextPins.inData = data

/-- A step is safe when it answers a next state that keeps the invariant. -/
def SafeStep (s : State) : Prop := ∃ t, step s = .next t ∧ Inv t

end Sys2Proof.Machine
end

