-- ==== Sys2Proof/Certificates/Slice0/Obligations.lean ====
section
/-!
DEFINITION. The statements for the provers. Each docstring names the rules of the spec that the statement formalises.
-/

open Sys2Proof Sys2Proof.Machine

/-! ## Encodings and the row -/

/-- Decode and encode agree: the decoder gives back every well-formed decode class with every operand (R71, R77). -/
def Obligations.DecodeOfEncodeIsTheInstruction : Prop :=
  ∀ i : Instr, i.wf = true → decode (encode i).1 (encode i).2 = i

/-- R78: every pair of a length and a row word has exactly one outcome: it is the encoding of one well-formed class. -/
def Obligations.EveryRowIsOneWellFormedClass : Prop :=
  ∀ (len : Len16) (data : Frame48),
    (decode len data).wf = true ∧ encode (decode len data) = (len, data) ∧
    ∀ i : Instr, i.wf = true → encode i = (len, data) → i = decode len data

/-- R77: the opcode map. The three conditions exclude each other and cover every row, and DECODE.FRAME's match and mask
say that byte 0 is 0xFE. -/
def Obligations.OpcodeMapSelectsTheClass : Prop :=
  ∀ (len : Len16) (data : Frame48),
    (len.toNat < 48 → decode len data = .decodeShort len data) ∧
    (48 ≤ len.toNat → data.extractLsb' 40 8 ≠ (0xFE : BitVec 8) →
      decode len data = .decodeForeign len (data.extractLsb' 40 8) (data.extractLsb' 0 40)) ∧
    (48 ≤ len.toNat → data.extractLsb' 40 8 = (0xFE : BitVec 8) →
      decode len data = .decodeFrame len (data.extractLsb' 36 4) (data.extractLsb' 28 8) (data.extractLsb' 16 12)
        (data.extractLsb' 8 8) (data.extractLsb' 0 8)) ∧
    (data &&& 0xFF0000000000 = 0xFE0000000000 ↔ data.extractLsb' 40 8 = (0xFE : BitVec 8))

/-- A few row words written out field by field from R71 decode to the class they stand for (95_test_vectors.md V-SRC-1,
V-SRC-4, V-SRC-5, V-EXT-10). -/
def Obligations.WrittenOutRowsDecode : Prop :=
  decode 48 0b11111110_0000_00111100_000111010110_10000010_01111011 =
      .decodeFrame 48 0b0000 0x3C 0x1D6 0x82 0x7B ∧
  decode 48 0b11111110_1010_00111100_000111010110_10000010_11111010 =
      .decodeFrame 48 0b1010 0x3C 0x1D6 0x82 0xFA ∧
  decode 48 0b11111111_0000_00111100_000111010110_10000010_01111011 =
      .decodeForeign 48 0xFF 0b0000_00111100_000111010110_10000010_01111011 ∧
  decode 47 0b11111110_0000_00111100_000111010110_10000010_01111011 =
      .decodeShort 47 0b11111110_0000_00111100_000111010110_10000010_01111011

/-- R10 and R51: byte `i` stands in bits `47-8i : 40-8i`, row bit `k` is bit `7 - (k mod 8)` of byte `k div 8` and bit
`47-k` of the word, and the capture keeps the mapping. -/
def Obligations.RowBitsAreMsbFirst : Prop :=
  (∀ b0 b1 b2 b3 b4 b5 : Byte, ∀ i : Fin 6,
    rowByte (packBytes b0 b1 b2 b3 b4 b5) i = [b0, b1, b2, b3, b4, b5][i.val]!) ∧
  (∀ (w : Frame48) (k : Nat) (h : k / 8 < 6),
    rowBit w k = (rowByte w ⟨k / 8, h⟩).getLsbD (7 - k % 8) ∧ rowBit w k = w.getLsbD (47 - k)) ∧
  (∀ (s : State) (len : Len16) (data : Frame48), s.takes len data →
    ∀ i : Fin 6, rowByte (edge s).frameR i = data.extractLsb' (40 - 8 * i.val) 8)

/-- R53 and conflict C7 with D3 and D4: what a producer drives where the row has no byte, and every byte past the sixth, never
reach the result; a saturated length decides the length check as the row's own does. -/
def Obligations.UnpresentedBytesNeverMatter : Prop :=
  ∀ (r r' : BitRow) (pad pad' : Frame48), r.wf = true → r'.wf = true → r.lenBits = r'.lenBits →
    r.bytes.take 6 = r'.bytes.take 6 →
    decodeRow (r.present pad).1 (r.present pad).2 = decodeRow (r'.present pad').1 (r'.present pad').2 ∧
    ((r.present pad).1.toNat < 48 ↔ r.lenBits < 48)

/-- R75 and R76: the reason codes and the state codes, and that each 2-bit and each 3-bit code names one of them. -/
def Obligations.ReasonAndStateCodes : Prop :=
  (Reason.code .none = 0b00 ∧ Reason.code .short = 0b01 ∧ Reason.code .marker = 0b10 ∧ Reason.code .crc = 0b11) ∧
  (St3.code .idle = 0b000 ∧ St3.code .chkLen = 0b001 ∧ St3.code .chkMark = 0b010 ∧ St3.code .crcRun = 0b011 ∧
    St3.code .chkCrc = 0b100 ∧ St3.code .extract = 0b101 ∧ St3.code .result = 0b110 ∧ St3.code .unused = 0b111) ∧
  (∀ c : BitVec 2, (Reason.ofCode c).code = c) ∧ (∀ r : Reason, Reason.ofCode r.code = r) ∧
  (∀ c : BitVec 3, (St3.ofCode c).code = c) ∧ (∀ t : St3, St3.ofCode t.code = t)

/-! ## The step -/

/-- A step at an input handshake runs the class its row decodes to, when no reset falls within the decode (R21, R119). -/
def Obligations.StepRunsTheRowTaken : Prop :=
  ∀ (s : State) (len : Len16) (data : Frame48), s.takes len data →
    s.noResetFor (1 + latency (decode len data)) → step s = exec (decode len data) s

/-- A table word placed where the next step takes its row is what that step runs, from every state; the word's length is
the model's choice (log entry 8). -/
def Obligations.PlacedWordIsRun : Prop :=
  ∀ (s : State) (nbits w : Nat) (i : Instr), decodeTableWord nbits w = some i →
    step (s.withFetchWord nbits w) = exec i (s.withFetchWord nbits w)

/-- Every step is a whole number of rising edges, at most 37, and skips over no state in which the block waits for its
environment (R110, R119, R232). -/
def Obligations.EveryStepIsWholeEdges : Prop :=
  ∀ s : State, ∃ n : Nat, 1 ≤ n ∧ n ≤ 37 ∧ step s = .next (edges n s) ∧
    ∀ m : Nat, 0 < m → m < n → (edges m s).state ≠ .idle ∧ (edges m s).state ≠ .result

/-- R119: the state machine computes the decode function, and the meaning of the row's class is those edges. -/
def Obligations.StateMachineComputesDecode : Prop :=
  ∀ (s : State) (len : Len16) (data : Frame48), s.takes len data →
    s.noResetFor (1 + latency (decode len data)) →
    exec (decode len data) s = .next (edges (1 + latency (decode len data)) s) ∧
    latency (decode len data) ≤ 36 ∧
    (edges (1 + latency (decode len data)) s).state = .result ∧
    (edges (1 + latency (decode len data)) s).resultPorts = (decodeRow len data).ports

/-- Every state has a next state: no fault and no refusal (R200, R213). That the step is one edge where no row is taken is the
model's choice of granularity, not a rule of the spec (log entry 1, DESIGN CHOICE). -/
def Obligations.EveryStepAnswers : Prop :=
  ∀ s : State, (∃ t, step s = .next t) ∧ (s.inputHandshake = false → step s = .next (edge s))

/-! ## Reset -/

/-- R230: a reset edge loads every register whatever the state and the other inputs are. That the step is this one edge is
the model's choice of granularity (log entry 1, DESIGN CHOICE), and the level used up is the model's own field (log entry 2,
DESIGN CHOICE). -/
def Obligations.ResetEdgeLoadsEveryRegister : Prop :=
  ∀ s : State, s.nextPins.rst = true →
    edge s = { state := .idle, frameR := 0, lenR := 0, crcR := 0, cnt := 0, outAcc := false, outRsn := .none,
               outId := 0, outTemp := 0, outHum := 0, pins := s.pins.drop 1 } ∧
    step s = .next (edge s)

/-- R232: a reset after the input handshake and at or before the result handshake abandons the transaction: no result
handshake, and the block is as after any reset. -/
def Obligations.ResetAbandonsTheTransaction : Prop :=
  ∀ (s : State) (len : Len16) (data : Frame48) (k : Nat), s.takes len data → s.noResetFor (k + 1) →
    (∀ m, m ≤ k → (edges m s).resultHandshake = false) → (edges (k + 1) s).nextPins.rst = true →
    events (k + 2) s = [.taken len data, .reset] ∧
    edges (k + 2) s = { State.reset with pins := s.pins.drop (k + 2) }

/-- The same abandonment by one step, when the reset falls within the decode (R232). -/
def Obligations.StepAbandonsAtReset : Prop :=
  ∀ (s : State) (len : Len16) (data : Frame48) (k : Nat), s.takes len data → s.noResetFor (k + 1) →
    (edges (k + 1) s).nextPins.rst = true → k < latency (decode len data) →
    step s = .next { State.reset with pins := s.pins.drop (k + 2) }

/-- R233: after a reset edge the block is ready, offers nothing, and takes a row at the next edge that offers one without
reset; while `rst` stays 1 every edge repeats the reset. -/
def Obligations.ReadyAfterOneResetEdge : Prop :=
  ∀ s : State, s.nextPins.rst = true →
    (edge s).outputs = { inReady := true, outValid := false, outAccept := false, outReason := 0, outId := 0,
                         outTemp := 0, outHum := 0 } ∧
    (edge s).inputHandshake = ((edge s).nextPins.inValid && !(edge s).nextPins.rst) ∧
    ((edge s).nextPins.rst = true → edge (edge s) = { State.reset with pins := s.pins.drop 2 })

/-! ## The arms of the state machine

Each of these edges also uses up one level of `pins`, the model's own field for the environment (log entry 2, DESIGN CHOICE).
The rules cited say what happens to the registers. -/

/-- R111: IDLE captures an offered row, all 64 bits at one edge, and otherwise waits; no other register is written; the row
and its offer are sampled in no other state. -/
def Obligations.IdleCaptures : Prop :=
  (∀ s : State, s.state = .idle → s.nextPins.rst = false →
    (s.nextPins.inValid = true →
      edge s = { s with frameR := s.nextPins.inData, lenR := s.nextPins.inLen, state := .chkLen,
                        pins := s.pins.drop 1 }) ∧
    (s.nextPins.inValid = false → edge s = { s with pins := s.pins.drop 1 })) ∧
  (∀ (s : State) (p : Pins) (ps : List Pins) (v : Bool) (len : Len16) (data : Frame48), s.state ≠ .idle →
    edge { s with pins := p :: ps } = edge { s with pins := { p with inValid := v, inLen := len, inData := data } :: ps })

/-- R112 with R108: CHK_LEN. -/
def Obligations.LengthCheckEdge : Prop :=
  ∀ s : State, s.state = .chkLen → s.nextPins.rst = false →
    (s.lenR.toNat < 48 →
      edge s = { s with outAcc := false, outRsn := .short, outId := 0x00, outTemp := 0x000, outHum := 0x00,
                        state := .result, pins := s.pins.drop 1 }) ∧
    (48 ≤ s.lenR.toNat → edge s = { s with state := .chkMark, pins := s.pins.drop 1 })

/-- R113 with R108: CHK_MARK. -/
def Obligations.MarkerCheckEdge : Prop :=
  ∀ s : State, s.state = .chkMark → s.nextPins.rst = false →
    (s.frameR.extractLsb' 40 8 ≠ (0xFE : BitVec 8) →
      edge s = { s with outAcc := false, outRsn := .marker, outId := 0x00, outTemp := 0x000, outHum := 0x00,
                        state := .result, pins := s.pins.drop 1 }) ∧
    (s.frameR.extractLsb' 40 8 = (0xFE : BitVec 8) →
      edge s = { s with crcR := 0x00, cnt := 0, state := .crcRun, pins := s.pins.drop 1 })

/-- R114 with R132: CRC_RUN takes row bit `8 + CNT`, `FRAME_R[39 - CNT]`; the feedback bit is `CRC_R[7]` XOR that bit. -/
def Obligations.CrcRunEdge : Prop :=
  ∀ s : State, s.state = .crcRun → s.nextPins.rst = false →
    edge s =
      { s with
          crcR := if (s.crcR.getLsbD 7 ^^ s.frameR.getLsbD (39 - s.cnt.toNat)) = true
                  then BitVec.ofNat 8 (s.crcR.toNat * 2 % 256) ^^^ 0x31 else BitVec.ofNat 8 (s.crcR.toNat * 2 % 256)
          cnt := BitVec.ofNat 5 ((s.cnt.toNat + 1) % 32)
          state := if s.cnt.toNat = 31 then .chkCrc else .crcRun
          pins := s.pins.drop 1 }

/-- R115 with R108: CHK_CRC. -/
def Obligations.ChecksumCheckEdge : Prop :=
  ∀ s : State, s.state = .chkCrc → s.nextPins.rst = false →
    (s.crcR ≠ s.frameR.extractLsb' 0 8 →
      edge s = { s with outAcc := false, outRsn := .crc, outId := 0x00, outTemp := 0x000, outHum := 0x00,
                        state := .result, pins := s.pins.drop 1 }) ∧
    (s.crcR = s.frameR.extractLsb' 0 8 → edge s = { s with state := .extract, pins := s.pins.drop 1 })

/-- R116: EXTRACT writes all five result registers at one edge, from the slices of the row. -/
def Obligations.ExtractEdge : Prop :=
  ∀ s : State, s.state = .extract → s.nextPins.rst = false →
    edge s =
      { s with
          outId := s.frameR.extractLsb' 28 8
          outTemp := BitVec.ofInt 12 (sm12 (s.frameR.extractLsb' 16 12))
          outHum := s.frameR.extractLsb' 8 8
          outAcc := true
          outRsn := .none
          state := .result
          pins := s.pins.drop 1 }

/-- R117: RESULT waits for the consumer, writes no register but `state`, and is not ready for a row. -/
def Obligations.ResultEdge : Prop :=
  ∀ s : State, s.state = .result → s.nextPins.rst = false →
    s.outputs.inReady = false ∧
    (s.nextPins.outReady = true → edge s = { s with state := .idle, pins := s.pins.drop 1 }) ∧
    (s.nextPins.outReady = false → edge s = { s with pins := s.pins.drop 1 })

/-- R118: the unused code goes to IDLE, and no other register is written. That no edge, with or without a reset, leaves the
unused code in the register is the sentence of R118 that the spec itself marks as derived, from R111 to R117 and R230. -/
def Obligations.UnusedCodeRecovers : Prop :=
  ∀ s : State,
    (s.state = .unused → s.nextPins.rst = false → edge s = { s with state := .idle, pins := s.pins.drop 1 }) ∧
    (edge s).state ≠ .unused

/-! ## The decode classes

A meaning runs its transaction from whatever state it is given, and its class even on a term that is not well-formed (log
entry 13, DESIGN CHOICE). The step calls it only at the handshake of its own row. -/

/-- R103: DECODE.SHORT completes in every state: the row is captured, the flags are the SHORT rejection, the reading is
zero, and nothing else changes; the decode takes the handshake edge and one more. The input levels used up are the model's own field and their count rests on D12 (log entries 2
and 11). -/
def Obligations.ShortRowIsRejected : Prop :=
  ∀ (len : Len16) (data : Frame48) (s : State), len.toNat < 48 →
    exec (.decodeShort len data) s =
      .next { s with frameR := data, lenR := len, outAcc := false, outRsn := .short, outId := 0x00, outTemp := 0x000,
                     outHum := 0x00, state := .result, pins := s.pins.drop 2 }

/-- R104: DECODE.FOREIGN completes in every state, whatever its other bytes are: the row is captured, the flags are the
MARKER rejection, the reading is zero, and nothing else changes; the decode takes the handshake edge and two more. The input levels used up are the model's own field and their count rests on D12 (log entries 2
and 11). -/
def Obligations.ForeignRowIsRejected : Prop :=
  ∀ (len : Len16) (m : Byte) (rest : BitVec 40) (s : State), 48 ≤ len.toNat → m ≠ 0xFE →
    exec (.decodeForeign len m rest) s =
      .next { s with frameR := m ++ rest, lenR := len, outAcc := false, outRsn := .marker, outId := 0x00,
                     outTemp := 0x000, outHum := 0x00, state := .result, pins := s.pins.drop 3 }

/-- R105, the accepting half: when the CRC of bytes 1..4 is byte 5, DECODE.FRAME completes in every state with the reading
in the result registers, the CRC in CRC_R and CNT back at 0; every other register keeps its value. The input levels used up are the model's own field and their count rests on D12 (log entries 2
and 11). -/
def Obligations.FrameIsAccepted : Prop :=
  ∀ (len : Len16) (u : Nibble) (id : Byte) (treg : Temp12) (hum crc : Byte) (s : State), 48 ≤ len.toNat →
    crc8 (u ++ id.extractLsb' 4 4) (id.extractLsb' 0 4 ++ treg.extractLsb' 8 4) (treg.extractLsb' 0 8) hum = crc →
    exec (.decodeFrame len u id treg hum crc) s =
      .next { s with frameR := (0xFE : Byte) ++ u ++ id ++ treg ++ hum ++ crc, lenR := len, crcR := crc, cnt := 0,
                     outAcc := true, outRsn := .none, outId := id, outTemp := BitVec.ofInt 12 (sm12 treg),
                     outHum := hum, state := .result, pins := s.pins.drop 37 }

/-- R105, the rejecting half: when the CRC of bytes 1..4 differs from byte 5, DECODE.FRAME completes in every state with the
CRC rejection and a zero reading, the computed CRC in CRC_R and CNT back at 0; every other register keeps its value. The input levels used up are the model's own field and their count rests on D12 (log entries 2
and 11). -/
def Obligations.FrameIsRejectedOnChecksum : Prop :=
  ∀ (len : Len16) (u : Nibble) (id : Byte) (treg : Temp12) (hum crc : Byte) (s : State), 48 ≤ len.toNat →
    crc8 (u ++ id.extractLsb' 4 4) (id.extractLsb' 0 4 ++ treg.extractLsb' 8 4) (treg.extractLsb' 0 8) hum ≠ crc →
    exec (.decodeFrame len u id treg hum crc) s =
      .next { s with frameR := (0xFE : Byte) ++ u ++ id ++ treg ++ hum ++ crc, lenR := len,
                     crcR := crc8 (u ++ id.extractLsb' 4 4) (id.extractLsb' 0 4 ++ treg.extractLsb' 8 4)
                       (treg.extractLsb' 0 8) hum,
                     cnt := 0, outAcc := false, outRsn := .crc, outId := 0x00, outTemp := 0x000, outHum := 0x00,
                     state := .result, pins := s.pins.drop 36 }

/-- R102 with R75: the first failed check decides the reason, `out_accept = 1` exactly when the reason is NONE, and no field
is extracted unless every check passes. -/
def Obligations.FirstFailedCheckDecides : Prop :=
  ∀ (len : Len16) (data : Frame48) (s : State), ∃ t, exec (decode len data) s = .next t ∧
    t.outRsn =
      (if len.toNat < 48 then .short
       else if data.extractLsb' 40 8 ≠ (0xFE : BitVec 8) then .marker
       else if crc8 (data.extractLsb' 32 8) (data.extractLsb' 24 8) (data.extractLsb' 16 8) (data.extractLsb' 8 8) ≠
          data.extractLsb' 0 8 then .crc
       else .none) ∧
    (t.outAcc = true ↔ t.outRsn = .none) ∧
    (t.outRsn ≠ .none → t.outId = 0x00 ∧ t.outTemp = 0x000 ∧ t.outHum = 0x00)

/-- R101: every class answers with the port values of the decode function for its row. -/
def Obligations.EveryClassAnswersTheDecodeFunction : Prop :=
  ∀ (i : Instr) (s : State), i.wf = true → ∃ t, exec i s = .next t ∧ t.state = .result ∧
    t.lenR = (encode i).1 ∧ t.frameR = (encode i).2 ∧ t.resultPorts = (decodeRow (encode i).1 (encode i).2).ports

/-- The frame of DECODE over its row space (R23, R55): reading any byte of the row after a decode gives the byte that was
offered; the decode writes nothing to it. The classes but DECODE.FRAME leave CRC_R and CNT as they were (R30); on a term that
is not well-formed, whose row is of another class, that rests on log entry 13 (DESIGN CHOICE), not on the spec. -/
def Obligations.DecodeLeavesTheRowAsTaken : Prop :=
  ∀ (i : Instr) (s : State), ∃ t, exec i s = .next t ∧
    (∀ j : Fin 6, rowByte t.frameR j = rowByte (encode i).2 j) ∧ t.lenR = (encode i).1 ∧
    ((∀ len u id treg hum crc, i ≠ .decodeFrame len u id treg hum crc) → t.crcR = s.crcR ∧ t.cnt = s.cnt)

/-- R81 with R109: every frame that FRAME builds is accepted with the reading it was built from, whatever the reading is. -/
def Obligations.BuiltFrameIsAccepted : Prop :=
  ∀ (len : Len16) (id h : Byte) (u : Nibble) (temp : Int) (s : State), 48 ≤ len.toNat → -2047 ≤ temp → temp ≤ 2047 →
    ∃ t, exec (decode len (buildFrame id temp h u)) s = .next t ∧
      t.resultPorts = { accept := true, reason := .none, id := id, temp := BitVec.ofInt 12 temp, hum := h } ∧
      tempOfCode t.outTemp = temp

/-- R81, the other way: an accepted row is the frame built from its reading, except that negative zero is built as 0x000. -/
def Obligations.AcceptedRowIsTheBuiltFrame : Prop :=
  ∀ (len : Len16) (w : Frame48) (id h : Byte) (temp : Int), decodeRow len w = .accept id temp h →
    -2047 ≤ temp ∧ temp ≤ 2047 ∧
    (tregField w ≠ 0x800 → buildFrame id temp h (unusedField w) = w) ∧
    (tregField w = 0x800 → temp = 0 ∧ tregField (buildFrame id temp h (unusedField w)) = 0x000)

/-! ## What a result depends on -/

/-- R53: when `LEN_R < 48` no result output depends on any bit of the row data, in the whole decode and at the edge that
decides it. -/
def Obligations.ShortRowReadsNoData : Prop :=
  (∀ (len : Len16) (data data' : Frame48) (s : State), len.toNat < 48 →
    ∃ t t', exec (decode len data) s = .next t ∧ exec (decode len data') s = .next t' ∧
      t.outputs = t'.outputs ∧ t.pins = t'.pins) ∧
  (∀ (s : State) (data : Frame48), s.state = .chkLen → s.lenR.toNat < 48 →
    (edge { s with frameR := data }).outputs = (edge s).outputs)

/-- R79: a row of exactly 48 bits and a longer row with the same first six bytes decode identically. -/
def Obligations.LongerRowsDecodeAlike : Prop :=
  ∀ (len : Len16) (data : Frame48) (s : State), 48 ≤ len.toNat →
    ∃ t t', exec (decode 48 data) s = .next t ∧ exec (decode len data) s = .next t' ∧ t' = { t with lenR := len }

/-- R29 and R107: the result of a transaction is a function of the row captured and of nothing else, at the edges of the
state machine: two blocks with any register contents that take the same row give the same result at the same edge. -/
def Obligations.ResultDependsOnTheRowAlone : Prop :=
  ∀ (s s' : State) (len : Len16) (data : Frame48), s.takes len data → s'.takes len data →
    s.noResetFor (1 + latency (decode len data)) → s'.noResetFor (1 + latency (decode len data)) →
    (edges (1 + latency (decode len data)) s).state = .result ∧
    (edges (1 + latency (decode len data)) s').state = .result ∧
    (edges (1 + latency (decode len data)) s).resultPorts = (edges (1 + latency (decode len data)) s').resultPorts

/-- R204, its edges, and U5: `rst = 1` overrides everything else; outside IDLE the row and its offer are not sampled; outside
RESULT `out_ready` is not sampled. -/
def Obligations.UnsampledInputsAreIgnored : Prop :=
  ∀ (s : State) (p q : Pins) (ps : List Pins),
    (p.rst = true → q.rst = true → edge { s with pins := p :: ps } = edge { s with pins := q :: ps }) ∧
    (s.state ≠ .idle → p.rst = q.rst → p.outReady = q.outReady →
      edge { s with pins := p :: ps } = edge { s with pins := q :: ps }) ∧
    (s.state ≠ .result →
      edge { s with pins := p :: ps } = edge { s with pins := { p with outReady := !p.outReady } :: ps })

/-! ## The CRC -/

/-- R133: the bit-serial form, each byte from bit 7 down to bit 0, gives the bytewise form. -/
def Obligations.SerialCrcIsBytewiseCrc : Prop :=
  ∀ b1 b2 b3 b4 : Byte,
    crcFold 0x00 (([b1, b2, b3, b4].map fun b => (List.range 8).map fun j => b.getLsbD (7 - j)).flatten) =
      crc8 b1 b2 b3 b4

/-- R134: the CRC_RUN phase of one transaction, from the edge that passes the marker check: after `k` CRC_RUN edges the
register is the fold of the first `k` covered row bits, and CHK_CRC sees the CRC of bytes 1..4. -/
def Obligations.CrcRunFoldsTheRow : Prop :=
  ∀ (s : State) (k : Nat), s.state = .chkMark → rowByte s.frameR 0 = 0xFE → k ≤ 32 → s.noResetFor (1 + k) →
    (edges (1 + k) s).crcR = crcFold 0x00 (rowBits s.frameR 8 k) ∧
    (edges (1 + k) s).cnt.toNat = k % 32 ∧
    (edges (1 + k) s).state = (if k < 32 then .crcRun else .chkCrc) ∧
    (k = 32 → (edges (1 + k) s).crcR =
      crc8 (rowByte s.frameR 1) (rowByte s.frameR 2) (rowByte s.frameR 3) (rowByte s.frameR 4))

/-- R136 (a): linearity. -/
def Obligations.CrcIsLinear : Prop :=
  ∀ a1 a2 a3 a4 b1 b2 b3 b4 : Byte,
    crc8 (a1 ^^^ b1) (a2 ^^^ b2) (a3 ^^^ b3) (a4 ^^^ b4) = crc8 a1 a2 a3 a4 ^^^ crc8 b1 b2 b3 b4

/-- R136 (b) with R135: a row passes the check exactly when the fold of its bits 8..47 ends at zero. -/
def Obligations.CheckPassesOnZeroRemainder : Prop :=
  ∀ w : Frame48,
    crc8 (rowByte w 1) (rowByte w 2) (rowByte w 3) (rowByte w 4) = rowByte w 5 ↔ crcFold 0x00 (rowBits w 8 40) = 0x00

/-- R136 (c): one wrong bit in bytes 1..5 of an accepted row makes it a CRC rejection. -/
def Obligations.SingleBitErrorIsCaught : Prop :=
  ∀ (len : Len16) (w : Frame48) (k : Nat) (id h : Byte) (temp : Int), decodeRow len w = .accept id temp h → k < 40 →
    decodeRow len (w ^^^ BitVec.twoPow 48 k) = .reject .crc

/-- R136 (d): a change to byte 0 is not seen by the CRC; the marker check catches it. -/
def Obligations.MarkerChangeIsCaughtByTheMarkerCheck : Prop :=
  ∀ (len : Len16) (w : Frame48) (d : Byte) (id h : Byte) (temp : Int), decodeRow len w = .accept id temp h → d ≠ 0 →
    crcFails (w ^^^ (d ++ (0 : BitVec 40))) = false ∧ decodeRow len (w ^^^ (d ++ (0 : BitVec 40))) = .reject .marker

/-- R137: the frame FE 00 00 00 00 00 is accepted with id 0, temperature 0 and humidity 0. -/
def Obligations.AllZeroFieldsAreAccepted : Prop :=
  crc8 0x00 0x00 0x00 0x00 = 0x00 ∧
  ∀ (len : Len16) (s : State), 48 ≤ len.toNat → ∃ t, exec (decode len (packBytes 0xFE 0 0 0 0 0)) s = .next t ∧
    t.resultPorts = { accept := true, reason := .none, id := 0, temp := 0, hum := 0 }

/-! ## The fields and the reading -/

/-- R151, R152 and R156: the source's byte formulas are the slices of the row word, and the id and the humidity so read are
what EXTRACT writes. -/
def Obligations.FieldFormulasAreSlices : Prop :=
  (∀ s : State, s.state = .extract → s.nextPins.rst = false →
    (edge s).outId = ((rowByte s.frameR 1 &&& 0x0F) <<< 4) ||| ((rowByte s.frameR 2 &&& 0xF0) >>> 4) ∧
    (edge s).outHum = rowByte s.frameR 4) ∧
  ∀ w : Frame48,
    ((rowByte w 1 &&& 0x0F) <<< 4) ||| ((rowByte w 2 &&& 0xF0) >>> 4) = w.extractLsb' 28 8 ∧
    (rowByte w 3).setWidth 12 ||| ((rowByte w 2 &&& 0x0F).setWidth 12 <<< 8) = w.extractLsb' 16 12 ∧
    idOf w = w.extractLsb' 28 8 ∧ tregOf w = w.extractLsb' 16 12 ∧ humOf w = w.extractLsb' 8 8

/-- R153: the sign-magnitude decoding and its range. Where reading the register as two's complement agrees with it, the last
clause, is the passage of R153 that the spec itself marks as derived. -/
def Obligations.SignMagnitudeDecoding : Prop :=
  ∀ r : Temp12,
    (r.getLsbD 11 = false → sm12 r = (r.toNat : Int)) ∧
    (r.getLsbD 11 = true → sm12 r = 2048 - (r.toNat : Int)) ∧
    -2047 ≤ sm12 r ∧ sm12 r ≤ 2047 ∧
    (r.toInt = sm12 r ↔ r.getLsbD 11 = false ∨ r = 0xC00)

/-- R154: the output code is the two's complement code of the temperature; a reader gets the integer back; every code but
0x800 is produced. -/
def Obligations.TemperatureCode : Prop :=
  (∀ r : Temp12, BitVec.ofInt 12 (sm12 r) = tempCode (sm12 r) ∧ (tempCode (sm12 r)).toInt = sm12 r ∧
    tempOfCode (tempCode (sm12 r)) = sm12 r) ∧
  (∀ c : Temp12, (∃ r : Temp12, tempCode (sm12 r) = c) ↔ c ≠ 0x800)

/-- R155, R157 and R182: the reading of an accepted frame is its id, a twentieth of its signed temperature and half its
humidity, exactly; the temperature lies in -102.35..102.35 and the humidity in 0..127.5. A DECODE.FRAME term of fewer than 48
bits is not well-formed, since its row is SHORT by R103; that it gives a reading too is the model's choice (log entry 13,
DESIGN CHOICE), not a rule of the spec. -/
def Obligations.ReadingIsExact : Prop :=
  ∀ (len : Len16) (u : Nibble) (id : Byte) (treg : Temp12) (hum crc : Byte) (s : State),
    crcFails (frameWord u id treg hum crc) = false →
    ∃ t, exec (.decodeFrame len u id treg hum crc) s = .next t ∧
      t.resultPorts.reading =
        some { id := id.toNat, temperatureCelsius := (sm12 treg : Rat) / 20, humidityPercent := (hum.toNat : Rat) / 2 } ∧
      -(10235 : Rat) / 100 ≤ (sm12 treg : Rat) / 20 ∧ (sm12 treg : Rat) / 20 ≤ 10235 / 100 ∧
      (hum.toNat : Rat) / 2 ≤ 1275 / 10

/-- R74 and R180: the reading word packs id, temperature code and humidity of an accepted row; it is zero on every reject,
which carries a reason; and in states that meet the invariant the temperature code 0x800 does not occur in it. On a term that
is not well-formed the second clause rests on log entry 13 (DESIGN CHOICE), not on the spec. -/
def Obligations.ReadingWordPacksTheResult : Prop :=
  (∀ r : ResultPorts, r.readingWord.extractLsb' 20 8 = r.id ∧ r.readingWord.extractLsb' 8 12 = r.temp ∧
    r.readingWord.extractLsb' 0 8 = r.hum) ∧
  (∀ (i : Instr) (s : State), ∃ t, exec i s = .next t ∧
    (t.outAcc = false → t.outRsn ≠ .none ∧ t.resultPorts.readingWord = 0x0000000 ∧ t.resultPorts.reading = none) ∧
    (t.outAcc = true → t.outRsn = .none ∧ t.resultPorts.readingWord =
      idField (encode i).2 ++ BitVec.ofInt 12 (sm12 (tregField (encode i).2)) ++ humField (encode i).2)) ∧
  (∀ s : State, Inv s → (s.resultPorts.readingWord).extractLsb' 8 12 ≠ (0x800 : BitVec 12))

/-- R185: two fractional digits show every temperature exactly. -/
def Obligations.RenderedTemperatureIsExact : Prop :=
  ∀ t : Int, -2047 ≤ t → t ≤ 2047 →
    renderTemp t =
      (if t < 0 then "-" else "") ++ Nat.repr (t.natAbs / 20) ++ "." ++
        (if t.natAbs % 20 * 5 < 10 then "0" else "") ++ Nat.repr (t.natAbs % 20 * 5) ∧
    (t.natAbs : Rat) / 20 = ((t.natAbs / 20 : Nat) : Rat) + ((t.natAbs % 20 * 5 : Nat) : Rat) / 100 ∧
    t.natAbs % 20 * 5 ≤ 95

/-- R184, R186 and R181: an accepted result gives one record of four fields in their order; a rejected one gives none. The
model name is an argument (D21). -/
def Obligations.RecordOnlyForAcceptedResult : Prop :=
  ∀ (name : String) (r : ResultPorts),
    (r.accept = false → r.record name = none ∧ r.reading = none) ∧
    (r.accept = true → (r.record name).map Record.fields =
      some [("model", name), ("id", Nat.repr r.id.toNat), ("temperature_C", renderTemp (tempOfCode r.temp)),
        ("humidity", Nat.repr (r.hum.toNat / 2) ++ "." ++ if r.hum.toNat % 2 = 1 then "5" else "0")]) ∧
    (r.hum.toNat : Rat) / 2 = ((r.hum.toNat / 2 : Nat) : Rat) + (if r.hum.toNat % 2 = 1 then 5 else 0) / 10

/-! ## Outputs, waits and timing -/

/-- R25 and R20: the outputs are driven from registers alone. -/
def Obligations.OutputsAreRegisterDriven : Prop :=
  ∀ s : State,
    s.outputs =
      { inReady := decide (s.state.code = 0b000), outValid := decide (s.state.code = 0b110), outAccept := s.outAcc,
        outReason := s.outRsn.code, outId := s.outId, outTemp := s.outTemp, outHum := s.outHum } ∧
    ∀ ps : List Pins, ({ s with pins := ps } : State).outputs = s.outputs

/-- R236: from the first cycle with `out_valid = 1` to the result handshake the outputs do not change, unless `rst = 1`. -/
def Obligations.ResultIsStable : Prop :=
  ∀ (s : State) (n : Nat), s.state = .result → s.noResetFor n → s.consumerHolds n →
    (edges n s).outputs = s.outputs ∧ (edges n s).state = .result

/-- R240: the latencies by outcome, and that the block is back in IDLE after the earliest result handshake. The counts are
the spec's design (D12); no other statement but the pins each class consumes rests on them (R239). -/
def Obligations.LatencyByOutcome : Prop :=
  ∀ (s : State) (len : Len16) (data : Frame48) (n : Nat), s.takes len data → n = (decodeRow len data).latency →
    s.noResetFor (1 + n) →
    (∀ m, m ≤ n → (edges m s).outputs.outValid = false) ∧ (edges (1 + n) s).outputs.outValid = true ∧
    ((edges (1 + n) s).nextPins.rst = false → (edges (1 + n) s).nextPins.outReady = true →
      (edges (2 + n) s).outputs.inReady = true)

/-- R213: every state but the two waits leaves within a bounded number of edges, from every register contents; IDLE waits
only for a row and RESULT only for the consumer. -/
def Obligations.OnlyTwoWaits : Prop :=
  (∀ s : State, s.state ≠ .idle → s.state ≠ .result → s.noResetFor 36 →
    ∃ n, 1 ≤ n ∧ n ≤ 36 ∧ ((edges n s).state = .idle ∨ (edges n s).state = .result)) ∧
  (∀ s : State, s.nextPins.rst = false → s.state = .idle → ((edge s).state = .idle ↔ s.nextPins.inValid = false)) ∧
  (∀ s : State, s.nextPins.rst = false → s.state = .result → ((edge s).state = .result ↔ s.nextPins.outReady = false))

/-! ## Invariants -/

/-- The reset state meets the invariant (R230). -/
def Obligations.ResetMeetsTheInvariant : Prop := Inv State.reset

/-- Every edge keeps the invariant: the checks each state has passed, the CRC so far, the counter, the result of the row in
RESULT, and that code 0x800 and the unused state never stand (R75, R101, R110-R118, R134, R154). -/
def Obligations.EveryEdgeKeepsTheInvariant : Prop := ∀ s : State, Inv s → Inv (edge s)

/-- Every step keeps the invariant and answers. -/
def Obligations.EveryStepKeepsTheInvariant : Prop := ∀ s : State, Inv s → SafeStep s

/-- R21, R59 and R106: over any run of edges from an idle block, whatever the inputs, each row taken is answered by exactly
one result, the decode function's for that row, before the next is taken, unless a reset drops it. -/
def Obligations.ResultsAnswerRowsInOrder : Prop :=
  ∀ (s : State) (n : Nat), s.state = .idle → wellPaired (events n s) = true
end

