-- ==== Sys2Proof/Laws/Crc.lean ====
section
/-!
SUPPORT. What the CRC operations do, under the convention of rule R130: the final value is the register, a shift is linear
over XOR, and one serial step is one bytewise shift with the bit in place.
-/
namespace Sys2Proof.Machine

@[simp] theorem crcValue_default (c : Byte) : crcValue Config.crcConvention c = c := by
  simp [crcValue, Config.crcConvention]

@[simp] theorem crcByteStep_default (c b : Byte) : crcByteStep Config.crcConvention c b = crcShifts 8 (c ^^^ b) := rfl

@[simp] theorem crcInputBit_default (w : Frame48) (cnt : Count5) :
    crcInputBit Config.crcConvention w cnt = w.getLsbD (39 - cnt.toNat) := rfl

/-- The checksum check compares the register with byte 5 (R115). -/
theorem checksumFails_iff (c : Byte) (w : Frame48) : checksumFails c w = true ↔ c ≠ rowByte w 5 := by
  simp [checksumFails, Config.crcByte]

/-- The CRC register after bytes 1..4 is the CRC of rule R131. -/
theorem rowCrc_eq (w : Frame48) : rowCrc w = crc8 (rowByte w 1) (rowByte w 2) (rowByte w 3) (rowByte w 4) := by
  simp [rowCrc, crc8, crcCovered, Config.crcBytes]

/-- R135. -/
theorem crcFails_iff (w : Frame48) :
    crcFails w = true ↔ crc8 (rowByte w 1) (rowByte w 2) (rowByte w 3) (rowByte w 4) ≠ rowByte w 5 := by
  rw [crcFails, checksumFails_iff, rowCrc_eq]

theorem crc8_eq (b1 b2 b3 b4 : Byte) :
    crc8 b1 b2 b3 b4 =
      crcShifts 8 (crcShifts 8 (crcShifts 8 (crcShifts 8 (Config.crcInit ^^^ b1) ^^^ b2) ^^^ b3) ^^^ b4) := by
  simp [crc8, crcRegister]

theorem crcFold_append (c : Byte) (xs ys : List Bool) : crcFold c (xs ++ ys) = crcFold (crcFold c xs) ys := by
  simp [crcFold]

@[simp] theorem crcFold_nil (c : Byte) : crcFold c [] = c := rfl

@[simp] theorem crcFold_cons (c : Byte) (b : Bool) (bs : List Bool) :
    crcFold c (b :: bs) = crcFold (crcStep c b) bs := rfl

/-- One more row bit (R134). -/
theorem rowBits_succ (w : Frame48) (lo n : Nat) : rowBits w lo (n + 1) = rowBits w lo n ++ [rowBit w (lo + n)] := by
  simp [rowBits, List.range_succ]

/-- A shift with its feedback is linear over XOR. -/
theorem crcShift_xor (a b : Byte) : crcShift (a ^^^ b) = crcShift a ^^^ crcShift b := by
  unfold crcShift
  rw [BitVec.msb_xor, BitVec.shiftLeft_xor_distrib]
  cases a.msb <;> cases b.msb <;> simp only [Bool.xor_false, Bool.xor_true, Bool.not_true, Bool.not_false, if_true,
    if_false, Bool.false_eq_true]
  · rw [BitVec.xor_assoc]
  · rw [BitVec.xor_assoc, BitVec.xor_assoc, BitVec.xor_comm (b <<< 1)]
  · rw [← BitVec.xor_assoc, BitVec.xor_assoc (a <<< 1), BitVec.xor_comm Config.crcPoly, ← BitVec.xor_assoc,
      BitVec.xor_assoc _ Config.crcPoly, BitVec.xor_self, BitVec.xor_zero]

theorem crcShifts_xor (n : Nat) : ∀ a b : Byte, crcShifts n (a ^^^ b) = crcShifts n a ^^^ crcShifts n b := by
  induction n with
  | zero => intro a b; rfl
  | succ n ih => intro a b; rw [crcShifts, crcShift_xor, ih]; rfl

/-- One serial step is one bytewise shift of the register with the bit XORed into bit 7 (R132, R133). -/
theorem crcStep_eq_shift (c : Byte) (b : Bool) : crcStep c b = crcShift (c ^^^ if b then 0x80 else 0) := by
  have h : crcShift 0x80 = Config.crcPoly := by decide
  cases b
  · simp [crcStep, crcShift]
  · rw [if_pos rfl, crcShift_xor, h, crcStep, crcShift]
    cases c.msb <;> simp

end Sys2Proof.Machine
end

