-- ==== Sys2Proof/Laws/State.lean ====
section
/-!
SUPPORT. One lemma per register and per operation on the state: what the register holds after it, true by definition. With
these no proof unfolds a record update.
-/
namespace Sys2Proof.Machine.State

variable (s : State)

/-! ## `elapse` -/

@[simp] theorem elapse_state (n : Nat) : (s.elapse n).state = s.state := rfl
@[simp] theorem elapse_frameR (n : Nat) : (s.elapse n).frameR = s.frameR := rfl
@[simp] theorem elapse_lenR (n : Nat) : (s.elapse n).lenR = s.lenR := rfl
@[simp] theorem elapse_crcR (n : Nat) : (s.elapse n).crcR = s.crcR := rfl
@[simp] theorem elapse_cnt (n : Nat) : (s.elapse n).cnt = s.cnt := rfl
@[simp] theorem elapse_outAcc (n : Nat) : (s.elapse n).outAcc = s.outAcc := rfl
@[simp] theorem elapse_outRsn (n : Nat) : (s.elapse n).outRsn = s.outRsn := rfl
@[simp] theorem elapse_outId (n : Nat) : (s.elapse n).outId = s.outId := rfl
@[simp] theorem elapse_outTemp (n : Nat) : (s.elapse n).outTemp = s.outTemp := rfl
@[simp] theorem elapse_outHum (n : Nat) : (s.elapse n).outHum = s.outHum := rfl
@[simp] theorem elapse_pins (n : Nat) : (s.elapse n).pins = s.pins.drop n := rfl

/-! ## `toReset` -/

@[simp] theorem toReset_state : s.toReset.state = .idle := rfl
@[simp] theorem toReset_frameR : s.toReset.frameR = 0 := rfl
@[simp] theorem toReset_lenR : s.toReset.lenR = 0 := rfl
@[simp] theorem toReset_crcR : s.toReset.crcR = 0 := rfl
@[simp] theorem toReset_cnt : s.toReset.cnt = 0 := rfl
@[simp] theorem toReset_outAcc : s.toReset.outAcc = false := rfl
@[simp] theorem toReset_outRsn : s.toReset.outRsn = .none := rfl
@[simp] theorem toReset_outId : s.toReset.outId = 0 := rfl
@[simp] theorem toReset_outTemp : s.toReset.outTemp = 0 := rfl
@[simp] theorem toReset_outHum : s.toReset.outHum = 0 := rfl
@[simp] theorem toReset_pins : s.toReset.pins = s.pins := rfl

/-! ## `capture` -/

@[simp] theorem capture_state (len : Len16) (data : Frame48) : (s.capture len data).state = .chkLen := rfl
@[simp] theorem capture_frameR (len : Len16) (data : Frame48) : (s.capture len data).frameR = data := rfl
@[simp] theorem capture_lenR (len : Len16) (data : Frame48) : (s.capture len data).lenR = len := rfl
@[simp] theorem capture_crcR (len : Len16) (data : Frame48) : (s.capture len data).crcR = s.crcR := rfl
@[simp] theorem capture_cnt (len : Len16) (data : Frame48) : (s.capture len data).cnt = s.cnt := rfl
@[simp] theorem capture_outAcc (len : Len16) (data : Frame48) : (s.capture len data).outAcc = s.outAcc := rfl
@[simp] theorem capture_outRsn (len : Len16) (data : Frame48) : (s.capture len data).outRsn = s.outRsn := rfl
@[simp] theorem capture_outId (len : Len16) (data : Frame48) : (s.capture len data).outId = s.outId := rfl
@[simp] theorem capture_outTemp (len : Len16) (data : Frame48) : (s.capture len data).outTemp = s.outTemp := rfl
@[simp] theorem capture_outHum (len : Len16) (data : Frame48) : (s.capture len data).outHum = s.outHum := rfl
@[simp] theorem capture_pins (len : Len16) (data : Frame48) : (s.capture len data).pins = s.pins := rfl

/-! ## `reject` -/

@[simp] theorem reject_state (c : Cause) : (s.reject c).state = .result := rfl
@[simp] theorem reject_frameR (c : Cause) : (s.reject c).frameR = s.frameR := rfl
@[simp] theorem reject_lenR (c : Cause) : (s.reject c).lenR = s.lenR := rfl
@[simp] theorem reject_crcR (c : Cause) : (s.reject c).crcR = s.crcR := rfl
@[simp] theorem reject_cnt (c : Cause) : (s.reject c).cnt = s.cnt := rfl
@[simp] theorem reject_outAcc (c : Cause) : (s.reject c).outAcc = false := rfl
@[simp] theorem reject_outRsn (c : Cause) : (s.reject c).outRsn = c.reason := rfl
@[simp] theorem reject_outId (c : Cause) : (s.reject c).outId = 0 := rfl
@[simp] theorem reject_outTemp (c : Cause) : (s.reject c).outTemp = 0 := rfl
@[simp] theorem reject_outHum (c : Cause) : (s.reject c).outHum = 0 := rfl
@[simp] theorem reject_pins (c : Cause) : (s.reject c).pins = s.pins := rfl

/-! ## `accept` -/

@[simp] theorem accept_state (id : Byte) (temp : Int) (hum : Byte) : (s.accept id temp hum).state = .result := rfl
@[simp] theorem accept_frameR (id : Byte) (temp : Int) (hum : Byte) : (s.accept id temp hum).frameR = s.frameR := rfl
@[simp] theorem accept_lenR (id : Byte) (temp : Int) (hum : Byte) : (s.accept id temp hum).lenR = s.lenR := rfl
@[simp] theorem accept_crcR (id : Byte) (temp : Int) (hum : Byte) : (s.accept id temp hum).crcR = s.crcR := rfl
@[simp] theorem accept_cnt (id : Byte) (temp : Int) (hum : Byte) : (s.accept id temp hum).cnt = s.cnt := rfl
@[simp] theorem accept_outAcc (id : Byte) (temp : Int) (hum : Byte) : (s.accept id temp hum).outAcc = true := rfl
@[simp] theorem accept_outRsn (id : Byte) (temp : Int) (hum : Byte) : (s.accept id temp hum).outRsn = .none := rfl
@[simp] theorem accept_outId (id : Byte) (temp : Int) (hum : Byte) : (s.accept id temp hum).outId = id := rfl
@[simp] theorem accept_outTemp (id : Byte) (temp : Int) (hum : Byte) : (s.accept id temp hum).outTemp = Sys2Proof.Machine.tempCode temp := rfl
@[simp] theorem accept_outHum (id : Byte) (temp : Int) (hum : Byte) : (s.accept id temp hum).outHum = hum := rfl
@[simp] theorem accept_pins (id : Byte) (temp : Int) (hum : Byte) : (s.accept id temp hum).pins = s.pins := rfl

/-! ## `setCrc` -/

@[simp] theorem setCrc_state (c : Byte) (n : Count5) : (s.setCrc c n).state = s.state := rfl
@[simp] theorem setCrc_frameR (c : Byte) (n : Count5) : (s.setCrc c n).frameR = s.frameR := rfl
@[simp] theorem setCrc_lenR (c : Byte) (n : Count5) : (s.setCrc c n).lenR = s.lenR := rfl
@[simp] theorem setCrc_crcR (c : Byte) (n : Count5) : (s.setCrc c n).crcR = c := rfl
@[simp] theorem setCrc_cnt (c : Byte) (n : Count5) : (s.setCrc c n).cnt = n := rfl
@[simp] theorem setCrc_outAcc (c : Byte) (n : Count5) : (s.setCrc c n).outAcc = s.outAcc := rfl
@[simp] theorem setCrc_outRsn (c : Byte) (n : Count5) : (s.setCrc c n).outRsn = s.outRsn := rfl
@[simp] theorem setCrc_outId (c : Byte) (n : Count5) : (s.setCrc c n).outId = s.outId := rfl
@[simp] theorem setCrc_outTemp (c : Byte) (n : Count5) : (s.setCrc c n).outTemp = s.outTemp := rfl
@[simp] theorem setCrc_outHum (c : Byte) (n : Count5) : (s.setCrc c n).outHum = s.outHum := rfl
@[simp] theorem setCrc_pins (c : Byte) (n : Count5) : (s.setCrc c n).pins = s.pins := rfl

/-! ## `goto` -/

@[simp] theorem goto_state (t : St3) : (s.goto t).state = t := rfl
@[simp] theorem goto_frameR (t : St3) : (s.goto t).frameR = s.frameR := rfl
@[simp] theorem goto_lenR (t : St3) : (s.goto t).lenR = s.lenR := rfl
@[simp] theorem goto_crcR (t : St3) : (s.goto t).crcR = s.crcR := rfl
@[simp] theorem goto_cnt (t : St3) : (s.goto t).cnt = s.cnt := rfl
@[simp] theorem goto_outAcc (t : St3) : (s.goto t).outAcc = s.outAcc := rfl
@[simp] theorem goto_outRsn (t : St3) : (s.goto t).outRsn = s.outRsn := rfl
@[simp] theorem goto_outId (t : St3) : (s.goto t).outId = s.outId := rfl
@[simp] theorem goto_outTemp (t : St3) : (s.goto t).outTemp = s.outTemp := rfl
@[simp] theorem goto_outHum (t : St3) : (s.goto t).outHum = s.outHum := rfl
@[simp] theorem goto_pins (t : St3) : (s.goto t).pins = s.pins := rfl

/-! ## `takeRow` -/

@[simp] theorem takeRow_state (n : Nat) (len : Len16) (data : Frame48) : (s.takeRow n len data).state = .chkLen := rfl
@[simp] theorem takeRow_frameR (n : Nat) (len : Len16) (data : Frame48) : (s.takeRow n len data).frameR = data := rfl
@[simp] theorem takeRow_lenR (n : Nat) (len : Len16) (data : Frame48) : (s.takeRow n len data).lenR = len := rfl
@[simp] theorem takeRow_crcR (n : Nat) (len : Len16) (data : Frame48) : (s.takeRow n len data).crcR = s.crcR := rfl
@[simp] theorem takeRow_cnt (n : Nat) (len : Len16) (data : Frame48) : (s.takeRow n len data).cnt = s.cnt := rfl
@[simp] theorem takeRow_outAcc (n : Nat) (len : Len16) (data : Frame48) : (s.takeRow n len data).outAcc = s.outAcc := rfl
@[simp] theorem takeRow_outRsn (n : Nat) (len : Len16) (data : Frame48) : (s.takeRow n len data).outRsn = s.outRsn := rfl
@[simp] theorem takeRow_outId (n : Nat) (len : Len16) (data : Frame48) : (s.takeRow n len data).outId = s.outId := rfl
@[simp] theorem takeRow_outTemp (n : Nat) (len : Len16) (data : Frame48) : (s.takeRow n len data).outTemp = s.outTemp := rfl
@[simp] theorem takeRow_outHum (n : Nat) (len : Len16) (data : Frame48) : (s.takeRow n len data).outHum = s.outHum := rfl
@[simp] theorem takeRow_pins (n : Nat) (len : Len16) (data : Frame48) : (s.takeRow n len data).pins = s.pins.drop (1 + n) := rfl

/-! ## `offer` -/

@[simp] theorem offer_state (p : Pins) : (s.offer p).state = .idle := rfl
@[simp] theorem offer_frameR (p : Pins) : (s.offer p).frameR = s.frameR := rfl
@[simp] theorem offer_lenR (p : Pins) : (s.offer p).lenR = s.lenR := rfl
@[simp] theorem offer_crcR (p : Pins) : (s.offer p).crcR = s.crcR := rfl
@[simp] theorem offer_cnt (p : Pins) : (s.offer p).cnt = s.cnt := rfl
@[simp] theorem offer_outAcc (p : Pins) : (s.offer p).outAcc = s.outAcc := rfl
@[simp] theorem offer_outRsn (p : Pins) : (s.offer p).outRsn = s.outRsn := rfl
@[simp] theorem offer_outId (p : Pins) : (s.offer p).outId = s.outId := rfl
@[simp] theorem offer_outTemp (p : Pins) : (s.offer p).outTemp = s.outTemp := rfl
@[simp] theorem offer_outHum (p : Pins) : (s.offer p).outHum = s.outHum := rfl
@[simp] theorem offer_pins (p : Pins) : (s.offer p).pins = p :: s.pins.map fun q => { q with rst := false } := rfl

/-! ## The reset state -/

@[simp] theorem reset_state : State.reset.state = .idle := rfl
@[simp] theorem reset_frameR : State.reset.frameR = 0 := rfl
@[simp] theorem reset_lenR : State.reset.lenR = 0 := rfl
@[simp] theorem reset_crcR : State.reset.crcR = 0 := rfl
@[simp] theorem reset_cnt : State.reset.cnt = 0 := rfl
@[simp] theorem reset_outAcc : State.reset.outAcc = false := rfl
@[simp] theorem reset_outRsn : State.reset.outRsn = .none := rfl
@[simp] theorem reset_outId : State.reset.outId = 0 := rfl
@[simp] theorem reset_outTemp : State.reset.outTemp = 0 := rfl
@[simp] theorem reset_outHum : State.reset.outHum = 0 := rfl
@[simp] theorem reset_pins : State.reset.pins = [] := rfl

end Sys2Proof.Machine.State
end

