-- ==== Sys2Proof/Laws/Fsm.lean ====
section
/-!
SUPPORT. What an edge can do, said once: its reset case, its case per state, and the input levels it uses up; and how edges
compose. Later proofs cite these and do not unfold `edge`.
-/
namespace Sys2Proof.Machine

/-! ## Input levels -/

@[simp] theorem State.nextPins_elapse (s : State) (n : Nat) : (s.elapse n).nextPins = (s.pins.drop n).headD .quiet := rfl

theorem State.nextPins_cons (s : State) (p : Pins) (ps : List Pins) (h : s.pins = p :: ps) : s.nextPins = p := by
  simp [State.nextPins, h]

/-- No reset among the next `n + 1` edges: none at the next one and none among the `n` after it. -/
theorem State.noResetFor_succ (s t : State) (n : Nat) (h : t.pins = s.pins.drop 1) :
    s.noResetFor (n + 1) ↔ s.nextPins.rst = false ∧ t.noResetFor n := by
  unfold State.noResetFor State.nextPins
  rw [h]
  cases s.pins with
  | nil => simp [Pins.quiet]
  | cons p ps => simp

/-! ## The arms -/

/-- An arm leaves the input levels to the environment. -/
@[simp] theorem arm_pins (p : Pins) (s : State) : (arm p s).pins = s.pins := by
  unfold arm armIdle armChkLen armChkMark armCrcRun armChkCrc armExtract armResult armUnused
  cases s.state <;> dsimp only <;> (try split) <;> rfl

/-- Every edge uses up the levels of one edge. -/
@[simp] theorem edge_pins (s : State) : (edge s).pins = s.pins.drop 1 := by
  unfold edge
  dsimp only
  split
  · rfl
  · rw [arm_pins]; rfl

theorem edge_of_reset (s : State) (h : s.nextPins.rst = true) : edge s = (s.elapse 1).toReset := by
  simp [edge, h]

theorem edge_of_noReset (s : State) (h : s.nextPins.rst = false) : edge s = arm s.nextPins (s.elapse 1) := by
  simp [edge, h]

/-- The inversion of an edge: a reset, or the arm of the state it finds. -/
theorem edge_cases (s : State) :
    (s.nextPins.rst = true ∧ edge s = (s.elapse 1).toReset) ∨
    (s.nextPins.rst = false ∧
      ((s.state = .idle ∧ edge s = armIdle s.nextPins (s.elapse 1)) ∨
       (s.state = .chkLen ∧ edge s = armChkLen (s.elapse 1)) ∨
       (s.state = .chkMark ∧ edge s = armChkMark (s.elapse 1)) ∨
       (s.state = .crcRun ∧ edge s = armCrcRun (s.elapse 1)) ∨
       (s.state = .chkCrc ∧ edge s = armChkCrc (s.elapse 1)) ∨
       (s.state = .extract ∧ edge s = armExtract (s.elapse 1)) ∨
       (s.state = .result ∧ edge s = armResult s.nextPins (s.elapse 1)) ∨
       (s.state = .unused ∧ edge s = armUnused (s.elapse 1)))) := by
  cases h : s.nextPins.rst
  · refine .inr ⟨rfl, ?_⟩
    rw [edge_of_noReset s h]
    unfold arm
    cases hs : s.state <;> simp [hs]
  · exact .inl ⟨rfl, edge_of_reset s h⟩

/-! ## Runs of edges -/

@[simp] theorem edges_zero (s : State) : edges 0 s = s := rfl

theorem edges_succ (n : Nat) (s : State) : edges (n + 1) s = edges n (edge s) := rfl

theorem edges_add (m n : Nat) (s : State) : edges (m + n) s = edges n (edges m s) := by
  induction m generalizing s with
  | zero => simp
  | succ m ih => rw [Nat.succ_add, edges_succ, ih, edges_succ]

theorem edges_succ' (n : Nat) (s : State) : edges (n + 1) s = edge (edges n s) := by
  rw [edges_add n 1]; rfl

@[simp] theorem edges_pins (n : Nat) (s : State) : (edges n s).pins = s.pins.drop n := by
  induction n generalizing s with
  | zero => rfl
  | succ n ih => rw [edges_succ, ih, edge_pins, List.drop_drop, Nat.add_comm]

theorem events_append (m n : Nat) (s : State) : events (m + n) s = events m s ++ events n (edges m s) := by
  induction m generalizing s with
  | zero => simp [events]
  | succ m ih => rw [Nat.succ_add, events, ih, events, edges_succ, List.append_assoc]

/-! ## Resets ahead -/

/-- `firstReset` finds nothing exactly when no level of the window is a reset. -/
theorem firstReset_none_iff (n : Nat) : ∀ ps : List Pins, firstReset n ps = none ↔ ∀ p ∈ ps.take n, p.rst = false := by
  induction n with
  | zero => simp [firstReset]
  | succ n ih =>
    intro ps
    cases ps with
    | nil => simp [firstReset]
    | cons p ps => cases h : p.rst <;> simp [firstReset, h, ih]

/-- What `firstReset` finds: a reset inside the window, and none before it. -/
theorem firstReset_some (n : Nat) : ∀ (ps : List Pins) (k : Nat), firstReset n ps = some k →
    k < n ∧ ((ps.drop k).headD .quiet).rst = true ∧ ∀ p ∈ ps.take k, p.rst = false := by
  induction n with
  | zero => simp [firstReset]
  | succ n ih =>
    intro ps k hk
    cases ps with
    | nil => simp [firstReset] at hk
    | cons p ps =>
      cases h : p.rst
      · simp only [firstReset, h, Bool.false_eq_true, if_false, Option.map_eq_some_iff] at hk
        obtain ⟨j, hj, rfl⟩ := hk
        obtain ⟨h1, h2, h3⟩ := ih ps j hj
        exact ⟨by omega, by simpa using h2, by simp [h]; simpa using h3⟩
      · simp only [firstReset, h, if_true, Option.some.injEq] at hk
        subst hk
        exact ⟨by omega, by simp [h], by simp⟩

end Sys2Proof.Machine
end

