-- ==== Sys2Proof/Laws/PerInstr.lean ====
section
/-!
SUPPORT. The per-instruction family LatencyBound: the decode of a class takes at least one and at most 36 edges after its input
handshake (R239, R240).
-/
namespace Sys2Proof.Laws.LatencyBound

open Sys2Proof.Machine

def Statement (i : Instr) : Prop := 1 ≤ latency i ∧ latency i ≤ 36

theorem decodeShort (len : Len16) (data : Frame48) : Statement (.decodeShort len data) :=
  by
  simp [Statement, latency]

theorem decodeForeign (len : Len16) (m : Byte) (rest : BitVec 40) : Statement (.decodeForeign len m rest) :=
  by
  simp [Statement, latency]

theorem decodeFrame (len : Len16) (u : Nibble) (id : Byte) (treg : Temp12) (hum crc : Byte) :
    Statement (.decodeFrame len u id treg hum crc) := by
  simp only [Statement, latency]
  cases crcFails (frameWord u id treg hum crc) <;> simp

end Sys2Proof.Laws.LatencyBound
end

