-- ==== Sys2Proof/Laws/Row.lean ====
section
/-!
SUPPORT. The bits of row words and of their fields: what each builder puts at a bit, and which field reads it back. The bit
of a word is said through `getLsbD`, so that every equation of fields closes bit by bit.
-/
namespace Sys2Proof

open Sys2Proof.Machine

/-! ## Bits of the built words -/

theorem foreignWord_getLsbD (m : Byte) (rest : BitVec 40) (j : Nat) :
    (foreignWord m rest).getLsbD j = if j < 40 then rest.getLsbD j else m.getLsbD (j - 40) :=
  BitVec.getLsbD_append

theorem frameWord_getLsbD (u : Nibble) (id : Byte) (treg : Temp12) (hum crc : Byte) (j : Nat) :
    (frameWord u id treg hum crc).getLsbD j =
      if j < 8 then crc.getLsbD j
      else if j < 16 then hum.getLsbD (j - 8)
      else if j < 28 then treg.getLsbD (j - 16)
      else if j < 36 then id.getLsbD (j - 28)
      else if j < 40 then u.getLsbD (j - 36)
      else Config.marker.getLsbD (j - 40) := by
  have e : (frameWord u id treg hum crc).getLsbD j =
      (BitVec.append (BitVec.append (BitVec.append (BitVec.append (BitVec.append Config.marker u) id) treg) hum)
        crc).getLsbD j := rfl
  rw [e]
  simp only [BitVec.append_eq, BitVec.getLsbD_append]
  repeat' split
  all_goals first | rfl | omega

theorem packBytes_getLsbD (b0 b1 b2 b3 b4 b5 : Byte) (j : Nat) :
    (packBytes b0 b1 b2 b3 b4 b5).getLsbD j =
      if j < 8 then b5.getLsbD j
      else if j < 16 then b4.getLsbD (j - 8)
      else if j < 24 then b3.getLsbD (j - 16)
      else if j < 32 then b2.getLsbD (j - 24)
      else if j < 40 then b1.getLsbD (j - 32)
      else b0.getLsbD (j - 40) := by
  have e : (packBytes b0 b1 b2 b3 b4 b5).getLsbD j =
      (BitVec.append (BitVec.append (BitVec.append (BitVec.append (BitVec.append b0 b1) b2) b3) b4) b5).getLsbD j := rfl
  rw [e]
  simp only [BitVec.append_eq, BitVec.getLsbD_append]
  repeat' split
  all_goals first | rfl | omega

/-! ## Bits of the fields -/

theorem rowByte_getLsbD (w : Frame48) (i : Fin 6) (j : Nat) :
    (rowByte w i).getLsbD j = (decide (j < 8) && w.getLsbD (40 - 8 * i.val + j)) := by
  simp [rowByte, BitVec.getLsbD_extractLsb']

theorem markerField_getLsbD (w : Frame48) (j : Nat) :
    (markerField w).getLsbD j = (decide (j < 8) && w.getLsbD (40 + j)) := by
  simp only [markerField, BitVec.getLsbD_extractLsb']

theorem unusedField_getLsbD (w : Frame48) (j : Nat) :
    (unusedField w).getLsbD j = (decide (j < 4) && w.getLsbD (36 + j)) := by
  simp only [unusedField, BitVec.getLsbD_extractLsb']

theorem idField_getLsbD (w : Frame48) (j : Nat) : (idField w).getLsbD j = (decide (j < 8) && w.getLsbD (28 + j)) := by
  simp only [idField, BitVec.getLsbD_extractLsb']

theorem tregField_getLsbD (w : Frame48) (j : Nat) :
    (tregField w).getLsbD j = (decide (j < 12) && w.getLsbD (16 + j)) := by
  simp only [tregField, BitVec.getLsbD_extractLsb']

theorem humField_getLsbD (w : Frame48) (j : Nat) : (humField w).getLsbD j = (decide (j < 8) && w.getLsbD (8 + j)) := by
  simp only [humField, BitVec.getLsbD_extractLsb']

theorem crcField_getLsbD (w : Frame48) (j : Nat) : (crcField w).getLsbD j = (decide (j < 8) && w.getLsbD j) := by
  simp only [crcField, BitVec.getLsbD_extractLsb', Nat.zero_add]

theorem restField_getLsbD (w : Frame48) (j : Nat) : (restField w).getLsbD j = (decide (j < 40) && w.getLsbD j) := by
  simp only [restField, BitVec.getLsbD_extractLsb', Nat.zero_add]

/-! ## Fields of a foreign row -/

@[simp] theorem markerField_foreignWord (m : Byte) (rest : BitVec 40) : markerField (foreignWord m rest) = m := by
  refine BitVec.eq_of_getLsbD_eq fun j hj => ?_
  rw [markerField_getLsbD, foreignWord_getLsbD]
  simp [hj]

@[simp] theorem restField_foreignWord (m : Byte) (rest : BitVec 40) : restField (foreignWord m rest) = rest := by
  refine BitVec.eq_of_getLsbD_eq fun j hj => ?_
  rw [restField_getLsbD, foreignWord_getLsbD]
  simp [hj]

/-! ## Fields of a frame -/

section frame

variable (u : Nibble) (id : Byte) (treg : Temp12) (hum crc : Byte)

@[simp] theorem markerField_frameWord : markerField (frameWord u id treg hum crc) = Config.marker := by
  refine BitVec.eq_of_getLsbD_eq fun j hj => ?_
  rw [markerField_getLsbD, frameWord_getLsbD]
  repeat' split
  all_goals first | omega | simp [hj]

@[simp] theorem unusedField_frameWord : unusedField (frameWord u id treg hum crc) = u := by
  refine BitVec.eq_of_getLsbD_eq fun j hj => ?_
  rw [unusedField_getLsbD, frameWord_getLsbD]
  repeat' split
  all_goals first | omega | simp [hj]

@[simp] theorem idField_frameWord : idField (frameWord u id treg hum crc) = id := by
  refine BitVec.eq_of_getLsbD_eq fun j hj => ?_
  rw [idField_getLsbD, frameWord_getLsbD]
  repeat' split
  all_goals first | omega | simp [hj]

@[simp] theorem tregField_frameWord : tregField (frameWord u id treg hum crc) = treg := by
  refine BitVec.eq_of_getLsbD_eq fun j hj => ?_
  rw [tregField_getLsbD, frameWord_getLsbD]
  repeat' split
  all_goals first | omega | simp [hj]

@[simp] theorem humField_frameWord : humField (frameWord u id treg hum crc) = hum := by
  refine BitVec.eq_of_getLsbD_eq fun j hj => ?_
  rw [humField_getLsbD, frameWord_getLsbD]
  repeat' split
  all_goals first | omega | simp [hj]

@[simp] theorem crcField_frameWord : crcField (frameWord u id treg hum crc) = crc := by
  refine BitVec.eq_of_getLsbD_eq fun j hj => ?_
  rw [crcField_getLsbD, frameWord_getLsbD]
  repeat' split
  all_goals first | omega | simp [hj]

end frame

/-! ## Words from their fields -/

theorem foreignWord_fields (w : Frame48) : foreignWord (markerField w) (restField w) = w := by
  refine BitVec.eq_of_getLsbD_eq fun j hj => ?_
  rw [foreignWord_getLsbD, markerField_getLsbD, restField_getLsbD]
  split
  · simp_all
  · rw [show 40 + (j - 40) = j by omega, show decide (j - 40 < 8) = true from decide_eq_true (by omega), Bool.true_and]

theorem frameWord_fields (w : Frame48) (h : markerField w = Config.marker) :
    frameWord (unusedField w) (idField w) (tregField w) (humField w) (crcField w) = w := by
  refine BitVec.eq_of_getLsbD_eq fun j hj => ?_
  rw [frameWord_getLsbD, ← h, unusedField_getLsbD, idField_getLsbD, tregField_getLsbD, humField_getLsbD, crcField_getLsbD,
    markerField_getLsbD]
  repeat' split
  · simp_all
  · rw [show 8 + (j - 8) = j by omega, show decide (j - 8 < 8) = true from decide_eq_true (by omega), Bool.true_and]
  · rw [show 16 + (j - 16) = j by omega, show decide (j - 16 < 12) = true from decide_eq_true (by omega), Bool.true_and]
  · rw [show 28 + (j - 28) = j by omega, show decide (j - 28 < 8) = true from decide_eq_true (by omega), Bool.true_and]
  · rw [show 36 + (j - 36) = j by omega, show decide (j - 36 < 4) = true from decide_eq_true (by omega), Bool.true_and]
  · rw [show 40 + (j - 40) = j by omega, show decide (j - 40 < 8) = true from decide_eq_true (by omega), Bool.true_and]

/-- DECODE.FRAME's match and mask test byte 0 and nothing else (R77). -/
theorem frameMask_iff (w : Frame48) : w &&& frameMask = frameMatch ↔ markerField w = Config.marker := by
  constructor
  · intro h
    refine BitVec.eq_of_getLsbD_eq fun j hj => ?_
    have := congrArg (fun v : Frame48 => v.getLsbD (40 + j)) h
    revert this
    interval_cases j <;> simp [frameMask, frameMatch, markerField, Config.marker]
  · intro h
    refine BitVec.eq_of_getLsbD_eq fun j hj => ?_
    by_cases hj' : j < 40
    · have a : frameMask.getLsbD j = false := by revert j; decide
      have b : frameMatch.getLsbD j = false := by revert j; decide
      simp [a, b]
    · obtain ⟨k, rfl⟩ : ∃ k, j = 40 + k := ⟨j - 40, by omega⟩
      have hk : k < 8 := by omega
      have a : frameMask.getLsbD (40 + k) = true := by clear h hj hj'; revert k; decide
      have b : frameMatch.getLsbD (40 + k) = Config.marker.getLsbD k := by clear h hj hj' a; revert k; decide
      have c := congrArg (fun v : Byte => v.getLsbD k) h
      simp only [markerField_getLsbD, hk, decide_true, Bool.true_and] at c
      rw [BitVec.getLsbD_and, a, b, c, Bool.and_true]

/-- Byte 0 is the marker field. -/
theorem rowByte_zero (w : Frame48) : rowByte w 0 = markerField w := rfl

/-- Byte 5 is the checksum field. -/
theorem rowByte_five (w : Frame48) : rowByte w 5 = crcField w := rfl

/-- Byte 4 is the humidity field. -/
theorem rowByte_four (w : Frame48) : rowByte w 4 = humField w := rfl

/-- Byte 1 is field u, then the high nibble of the id (R71). -/
theorem rowByte_one (w : Frame48) : rowByte w 1 = unusedField w ++ (idField w).extractLsb' 4 4 := by
  refine BitVec.eq_of_getLsbD_eq fun j hj => ?_
  have e : (unusedField w ++ (idField w).extractLsb' 4 4).getLsbD j =
      if j < 4 then ((idField w).extractLsb' 4 4).getLsbD j else (unusedField w).getLsbD (j - 4) := BitVec.getLsbD_append
  rw [e, rowByte_getLsbD, BitVec.getLsbD_extractLsb', idField_getLsbD, unusedField_getLsbD]
  interval_cases j <;> simp

/-- Byte 2 is the low nibble of the id, then the high nibble of the temperature register (R71). -/
theorem rowByte_two (w : Frame48) : rowByte w 2 = (idField w).extractLsb' 0 4 ++ (tregField w).extractLsb' 8 4 := by
  refine BitVec.eq_of_getLsbD_eq fun j hj => ?_
  have e : ((idField w).extractLsb' 0 4 ++ (tregField w).extractLsb' 8 4).getLsbD j =
      if j < 4 then ((tregField w).extractLsb' 8 4).getLsbD j else ((idField w).extractLsb' 0 4).getLsbD (j - 4) :=
    BitVec.getLsbD_append
  rw [e, rowByte_getLsbD, BitVec.getLsbD_extractLsb', BitVec.getLsbD_extractLsb', idField_getLsbD, tregField_getLsbD]
  interval_cases j <;> simp

/-- Byte 3 is the rest of the temperature register (R71). -/
theorem rowByte_three (w : Frame48) : rowByte w 3 = (tregField w).extractLsb' 0 8 := by
  refine BitVec.eq_of_getLsbD_eq fun j hj => ?_
  rw [rowByte_getLsbD, BitVec.getLsbD_extractLsb', tregField_getLsbD]
  interval_cases j <;> simp

end Sys2Proof
end

