-- ==== Sys2Proof/Laws/Step.lean ====
section
/-!
SUPPORT. The inversion of a step, and what it means that a row is offered. Later proofs cite these and do not unfold `step`.
-/
namespace Sys2Proof.Machine

/-- The next edge is an input handshake exactly when it takes the row on the ports. -/
theorem offered_some_iff (s : State) (i : Instr) :
    s.offered = some i ↔
      s.takes s.nextPins.inLen s.nextPins.inData ∧ i = decode s.nextPins.inLen s.nextPins.inData := by
  constructor
  · intro h
    simp only [State.offered, State.inputHandshake, Bool.and_eq_true, Bool.not_eq_true', beq_iff_eq,
      Option.ite_none_right_eq_some, Option.some.injEq] at h
    obtain ⟨⟨⟨h1, h2⟩, h3⟩, h4⟩ := h
    exact ⟨⟨h1, h3, h2, rfl, rfl⟩, h4.symm⟩
  · rintro ⟨⟨h1, h2, h3, -, -⟩, rfl⟩
    simp [State.offered, State.inputHandshake, h1, h2, h3]

/-- The inversion of a step: one edge where no row is taken; an abandoned transaction; or the class the row decodes to. -/
theorem step_cases (s : State) :
    (s.offered = none ∧ step s = .next (edge s)) ∨
    (∃ i k, s.offered = some i ∧ s.abandonedAt i = some k ∧ step s = .next (s.abandon k)) ∨
    (∃ i, s.offered = some i ∧ s.abandonedAt i = none ∧ step s = exec i s) := by
  cases ho : s.offered with
  | none => exact .inl ⟨rfl, by simp [step, ho]⟩
  | some i =>
    cases ha : s.abandonedAt i with
    | some k => exact .inr (.inl ⟨i, k, rfl, ha, by simp [step, ho, ha]⟩)
    | none => exact .inr (.inr ⟨i, rfl, ha, by simp [step, ho, ha]⟩)

end Sys2Proof.Machine
end

