-- ==== Sys2Proof/Tests/Slice0.lean ====
section
/-!
SUPPORT. Tests of the model. Expected values are the spec's own vectors (95_test_vectors.md, named in each comment) or are worked
out by hand from the rule named. The second half gives, for each statement with hypotheses, a state and operands that meet them.
-/
namespace Sys2Proof.Tests

open Sys2Proof.Machine

/-- The state an outcome answers, if it answers one. -/
def after (o : Host.Outcome State Fault Refusal) : Option State :=
  match o with
  | .next s => some s
  | _ => none

/-- A block fresh from reset, with the input levels of the coming edges. -/
def withPins (ps : List Pins) : State := { State.reset with pins := ps }

/-- A block fresh from reset that is offered one row. -/
def offered (len : Len16) (data : Frame48) : State := withPins [Pins.offer len data]

/-- A block in a given sequencer state with a row in its registers. -/
def inState (t : St3) (len : Len16) (data : Frame48) : State :=
  { State.reset with state := t, lenR := len, frameR := data }

/-- A reset asserted at one edge. -/
def resetPins : Pins := { Pins.quiet with rst := true }

/-- A consumer ready at one edge. -/
def readyPins : Pins := { Pins.quiet with outReady := true }

/-! ## Well-formedness refuses -/

theorem test_wf_refuses_long_short : (Instr.decodeShort 48 0).wf = false := by decide
theorem test_wf_refuses_short_foreign : (Instr.decodeForeign 47 0xFF 0).wf = false := by decide
theorem test_wf_refuses_foreign_marker : (Instr.decodeForeign 48 0xFE 0).wf = false := by decide
theorem test_wf_refuses_short_frame : (Instr.decodeFrame 47 0 0 0 0 0).wf = false := by decide
theorem test_wf_refuses_row_without_bytes : (BitRow.mk 48 [0xFE, 3, 0xC1, 0xD6, 0x82]).wf = false := by decide

/-! ## Decoding, from words written out by the fields of R71 -/

/-- V-EXT-9: FE 05 A3 E8 65 FC is id 0x5A, register 0x3E8, humidity 101; here bit by bit. -/
theorem test_decode_frame :
    decode 48 0b11111110_0000_01011010_001111101000_01100101_11111100 =
      .decodeFrame 48 0 0b01011010 0b001111101000 0b01100101 0b11111100 := by decide

/-- V-MRK-2: only bit 7 of the marker differs. -/
theorem test_decode_foreign :
    decode 48 0b01111110_0000_00111100_000111010110_10000010_01111011 =
      .decodeForeign 48 0b01111110 0b0000_00111100_000111010110_10000010_01111011 := by decide

/-- V-LEN-3: one bit too short, though the word is a valid frame. -/
theorem test_decode_short :
    decode 47 0b11111110_0000_00111100_000111010110_10000010_01111011 =
      .decodeShort 47 0b11111110_0000_00111100_000111010110_10000010_01111011 := by decide

/-- P2 row 3 as a 56-bit row of seven bytes: the seventh is not presented. -/
theorem test_decode_bit_row :
    (match decodeBitRow (BitRow.mk 56 [0xFE, 0x03, 0xC8, 0x32, 0x82, 0x9A, 0x55]) 0 with
      | .ok i => some i
      | .error _ => none) = some (.decodeFrame 56 0 0x3C 0x832 0x82 0x9A) := by decide

theorem test_bit_row_rejected_by_name :
    (match decodeBitRow (BitRow.mk 48 [0xFE, 0x03]) 0 with
      | .ok _ => none
      | .error e => some e) = some .missingBytes := by decide

/-- A row longer than 65535 bits presents 65535 (D4). -/
theorem test_length_saturates : presentedLen 70000 = 65535 := by decide

/-- A table word is a row of as many bits as the word has (log entry 8). -/
theorem test_table_word :
    decodeTableWord 48 0xFE03C1D6827B = some (.decodeFrame 48 0 0x3C 0x1D6 0x82 0x7B) ∧
    decodeTableWord 40 0 = some (.decodeShort 40 0) ∧ decodeTableWord 48 (2 ^ 48) = none := by decide

/-! ## CRC-8 (R131, R132) -/

/-- V-CRC-1 to V-CRC-8. -/
theorem test_crc_vectors :
    [crc8 0 0 0 0, crc8 0 0 0 1, crc8 0x10 0 0 0, crc8 1 0 0 0, crc8 0x80 0 0 0, crc8 0xFF 0xFF 0xFF 0xFF,
      crc8 0x03 0xC1 0xD6 0x82, crc8 0x03 0xC1 0xD6 0x83] =
    [0x00, 0x31, 0x38, 0x9B, 0xF1, 0xB1, 0x7B, 0x4A] := by decide +kernel

/-- V-CRC-9, the register after each byte of V-SRC-1, bit-serially. -/
theorem test_crc_serial_trace :
    [8, 16, 24, 32].map (fun n => crcFold 0 (rowBits 0xFE03C1D6827B 8 n)) = [0x53, 0x5B, 0x36, 0x7B] := by
  decide +kernel

/-! ## Fields and temperature (R151-R154) -/

/-- Section 2.5: SM12 of each register. -/
theorem test_sm12_table :
    [0x000, 0x001, 0x1D6, 0x7FF, 0x800, 0x801, 0x832, 0xC00, 0xFFF].map sm12 =
      [0, 1, 470, 2047, 0, -1, -50, -1024, -2047] := by decide

/-- Section 2.5: the `out_temp` code of each. -/
theorem test_temp_codes :
    [0, 1, 470, 2047, -1, -50, -1024, -2047].map tempCode = [0x000, 0x001, 0x1D6, 0x7FF, 0xFFF, 0xFCE, 0xC00, 0x801] := by
  decide

/-- V-SRC-2, V-SRC-3 and V-EXT-4 from the frame builder (R81). -/
theorem test_frame_builder :
    buildFrame 0x3C (-50) 130 0 = 0xFE03C832829A ∧ buildFrame 0x3C 470 255 0 = 0xFE03C1D6FFCF ∧
    buildFrame 0 (-2047) 0 0 = 0xFE000FFF0030 := by decide +kernel

/-! ## The decode classes, one step each -/

/-- V-LEN-7: the length is checked before the marker and the CRC. -/
theorem test_short_row :
    (after (step (offered 47 0x0000000000FF))).map State.resultPorts =
      some { accept := false, reason := .short, id := 0, temp := 0, hum := 0 } := by decide

/-- V-MRK-5: the marker is reported although the CRC is bad too. -/
theorem test_foreign_row :
    (after (step (offered 48 0x0003C1D68200))).map State.resultPorts =
      some { accept := false, reason := .marker, id := 0, temp := 0, hum := 0 } := by decide

/-- V-SRC-2: a negative temperature. -/
theorem test_frame_accepted :
    (after (step (offered 48 0xFE03C832829A))).map State.resultPorts =
      some { accept := true, reason := .none, id := 0x3C, temp := 0xFCE, hum := 130 } := by decide +kernel

/-- V-SRC-7: byte 3 corrupted; the computed CRC 0x8F stays in CRC_R. -/
theorem test_frame_checksum :
    (after (step (offered 48 0xFE03C1D7827B))).map (fun s => (s.resultPorts, s.crcR, s.cnt)) =
      some ({ accept := false, reason := .crc, id := 0, temp := 0, hum := 0 }, 0x8F, 0) := by decide +kernel

/-- A placed word runs as the first instruction after reset, and its registers are those of P1's end state. -/
theorem test_placed_word :
    after (step (State.reset.withFetchWord 48 0xFE03C1D6827B)) =
      some { state := .result, frameR := 0xFE03C1D6827B, lenR := 48, crcR := 0x7B, cnt := 0, outAcc := true,
             outRsn := .none, outId := 0x3C, outTemp := 0x1D6, outHum := 130, pins := [] } := by decide +kernel

/-! ## Single edges -/

/-- The second row of V-CRC-9: with the register at 0x53, bit 0 of the counter's byte 2 gives 0x97 (C1 begins with a 1). -/
theorem test_crc_edge :
    (edge { inState .crcRun 48 0xFE03C1D6827B with crcR := 0x53, cnt := 8 }).crcR = 0x97 := by decide

/-- V-FSM-5: the counter wraps to 0 on leaving CRC_RUN. -/
theorem test_crc_last_edge :
    (edge { inState .crcRun 48 0xFE03C1D6827B with crcR := 0xA5, cnt := 31 }) =
      { inState .chkCrc 48 0xFE03C1D6827B with crcR := 0x7B, cnt := 0 } := by decide

/-- V-FSM-4. -/
theorem test_unused_edge : edge (inState .unused 48 5) = inState .idle 48 5 := by decide

/-- R232: a reset at the result-handshake edge wins over it. -/
theorem test_reset_beats_result :
    ({ inState .result 48 0 with pins := [{ readyPins with rst := true }] } : State).event = some .reset := by decide

/-! ## Readings, records and text -/

/-- Section 2.6: the rendered temperatures. -/
theorem test_render_temp :
    [470, -50, -1, 0, 2047, -2047, 1000].map renderTemp =
      ["23.50", "-2.50", "-0.05", "0.00", "102.35", "-102.35", "50.00"] := by decide

/-- Section 2.6: the rendered humidities. -/
theorem test_render_hum :
    [130, 255, 0, 1, 101, 200, 20].map renderHum = ["65.0", "127.5", "0.0", "0.5", "50.5", "100.0", "10.0"] := by decide

/-- P2, transaction 3: the host record. -/
theorem test_record :
    ({ accept := true, reason := .none, id := 0x3C, temp := 0xFCE, hum := 130 } : ResultPorts).record "M" =
      some { model := "M", id := 60, temperature := "-2.50", humidity := "65.0" } := by decide

/-- Section 2.6: RW28 of V-SRC-1 and V-SRC-2. -/
theorem test_reading_word :
    ({ accept := true, reason := .none, id := 0x3C, temp := 0x1D6, hum := 0x82 } : ResultPorts).readingWord = 0x3C1D682 ∧
    ({ accept := true, reason := .none, id := 0x3C, temp := 0xFCE, hum := 0x82 } : ResultPorts).readingWord = 0x3CFCE82 := by
  decide

/-- V-SRC-1 in the notation of R80. -/
theorem test_transaction_text :
    transactionText 48 0xFE03C1D6827B = "DECODE len=48 data=FE 03 C1 D6 82 7B" ∧
    (decodeRow 48 0xFE03C1D6827B).text = "ACCEPT id=0x3C temp=+470 hum=130" := by decide +kernel

/-! ## Witnesses: the hypotheses of each statement hold together somewhere -/

/-- DecodeOfEncodeIsTheInstruction, and the conclusions that name a well-formed class. -/
theorem witness_wf :
    (Instr.decodeShort 47 0).wf = true ∧ (Instr.decodeForeign 48 0xFF 0).wf = true ∧
    (Instr.decodeFrame 48 0 0 0 0 0).wf = true := by decide

/-- OpcodeMapSelectsTheClass, LongerRowsDecodeAlike: each side of the length bound and of the marker. -/
theorem witness_opcode_map :
    (47 : Len16).toNat < 48 ∧ 48 ≤ (48 : Len16).toNat ∧
    (0xFF0000000000 : Frame48).extractLsb' 40 8 ≠ (0xFE : BitVec 8) ∧
    (0xFE0000000000 : Frame48).extractLsb' 40 8 = (0xFE : BitVec 8) := by decide

/-- RowBitsAreMsbFirst, StepRunsTheRowTaken, StateMachineComputesDecode, ResultDependsOnTheRowAlone, LatencyByOutcome: a
row of each class and of each outcome is taken with no reset ahead. -/
theorem witness_takes :
    (offered 47 0).takes 47 0 ∧ (offered 47 0).noResetFor (1 + latency (decode 47 0)) ∧
    (offered 48 0).takes 48 0 ∧ (offered 48 0).noResetFor (1 + latency (decode 48 0)) ∧
    (offered 48 0xFE0000000000).takes 48 0xFE0000000000 ∧
    (offered 48 0xFE0000000000).noResetFor (1 + latency (decode 48 0xFE0000000000)) ∧
    (offered 48 0xFE0000000001).takes 48 0xFE0000000001 ∧
    (offered 48 0xFE0000000001).noResetFor (1 + latency (decode 48 0xFE0000000001)) := by decide +kernel

/-- LatencyByOutcome, its four counts. -/
theorem witness_latencies :
    (decodeRow 47 0).latency = 1 ∧ (decodeRow 48 0).latency = 2 ∧ (decodeRow 48 0xFE0000000001).latency = 35 ∧
    (decodeRow 48 0xFE0000000000).latency = 36 := by decide +kernel

/-- RowBitsAreMsbFirst: the last presented row bit. -/
theorem witness_row_bit : 47 / 8 < 6 := by decide

/-- UnpresentedBytesNeverMatter: two rows that agree in length and in their first six bytes only. -/
theorem witness_bit_rows :
    (BitRow.mk 48 [0xFE, 0, 0, 0, 0, 0]).wf = true ∧ (BitRow.mk 48 [0xFE, 0, 0, 0, 0, 0, 7]).wf = true ∧
    (BitRow.mk 48 [0xFE, 0, 0, 0, 0, 0]).bytes.take 6 = (BitRow.mk 48 [0xFE, 0, 0, 0, 0, 0, 7]).bytes.take 6 := by decide

/-- PlacedWordIsRun. -/
theorem witness_table_word : decodeTableWord 48 0 = some (.decodeForeign 48 0 0) := by decide

/-- EveryStepAnswers, its second clause. -/
theorem witness_no_handshake : State.reset.inputHandshake = false := by decide

/-- ResetEdgeLoadsEveryRegister, ReadyAfterOneResetEdge: a reset edge in the middle of a decode, and a second one. -/
theorem witness_reset_edge :
    ({ inState .crcRun 48 5 with pins := [resetPins, resetPins] } : State).nextPins.rst = true ∧
    (edge { inState .crcRun 48 5 with pins := [resetPins, resetPins] }).nextPins.rst = true := by decide

/-- StepAbandonsAtReset at `k = 0`, the first edge after the handshake. -/
theorem witness_abandon_first :
    (withPins [Pins.offer 47 0, resetPins]).takes 47 0 ∧ (withPins [Pins.offer 47 0, resetPins]).noResetFor 1 ∧
    (edges 1 (withPins [Pins.offer 47 0, resetPins])).nextPins.rst = true ∧ 0 < latency (decode 47 0) := by decide

/-- ResetAbandonsTheTransaction at the result-handshake edge itself (`k = 1` for a short row). -/
theorem witness_abandon_at_result :
    let s := withPins [Pins.offer 47 0, Pins.quiet, { readyPins with rst := true }]
    s.takes 47 0 ∧ s.noResetFor 2 ∧ (∀ m, m ≤ 1 → (edges m s).resultHandshake = false) ∧
    (edges 2 s).nextPins.rst = true := by decide

/-- IdleCaptures, its first part; a state that is not IDLE, for its second, is in `witness_unsampled`. -/
theorem witness_idle :
    (offered 48 0).state = .idle ∧ (offered 48 0).nextPins.rst = false ∧ (offered 48 0).nextPins.inValid = true ∧
    State.reset.nextPins.inValid = false := by decide

/-- LengthCheckEdge and ShortRowReadsNoData: both sides of the bound. -/
theorem witness_chk_len :
    (inState .chkLen 47 0).nextPins.rst = false ∧ (inState .chkLen 47 0).lenR.toNat < 48 ∧
    48 ≤ (inState .chkLen 48 0).lenR.toNat := by decide

/-- MarkerCheckEdge. -/
theorem witness_chk_mark :
    (inState .chkMark 48 0xFF0000000000).frameR.extractLsb' 40 8 ≠ (0xFE : BitVec 8) ∧
    (inState .chkMark 48 0xFE0000000000).frameR.extractLsb' 40 8 = (0xFE : BitVec 8) ∧
    (inState .chkMark 48 0).nextPins.rst = false := by decide

/-- CrcRunEdge, at the last bit; CrcRunFoldsTheRow, at 0 and 32 edges. -/
theorem witness_crc_run :
    ({ inState .crcRun 48 0 with cnt := 31 } : State).nextPins.rst = false ∧
    rowByte (inState .chkMark 48 0xFE0000000000).frameR 0 = 0xFE ∧
    (inState .chkMark 48 0xFE0000000000).noResetFor (1 + 0) ∧ (inState .chkMark 48 0xFE0000000000).noResetFor (1 + 32) := by
  decide

/-- ChecksumCheckEdge. -/
theorem witness_chk_crc :
    (inState .chkCrc 48 0xFE0000000001).crcR ≠ (inState .chkCrc 48 0xFE0000000001).frameR.extractLsb' 0 8 ∧
    (inState .chkCrc 48 0xFE0000000000).crcR = (inState .chkCrc 48 0xFE0000000000).frameR.extractLsb' 0 8 ∧
    (inState .chkCrc 48 0).nextPins.rst = false := by decide

/-- ExtractEdge, FieldFormulasAreSlices (its first clause) and UnusedCodeRecovers. -/
theorem witness_extract_unused :
    (inState .extract 48 0).state = .extract ∧ (inState .extract 48 0).nextPins.rst = false ∧
    (inState .unused 48 0).state = .unused ∧ (inState .unused 48 0).nextPins.rst = false := by decide

/-- ResultEdge, OnlyTwoWaits (its third clause) and ResultIsStable. -/
theorem witness_result :
    ({ inState .result 48 0 with pins := [readyPins] } : State).nextPins.outReady = true ∧
    ({ inState .result 48 0 with pins := [readyPins] } : State).nextPins.rst = false ∧
    (inState .result 48 0).nextPins.outReady = false ∧
    (inState .result 48 0).noResetFor 3 ∧ (inState .result 48 0).consumerHolds 3 := by decide

/-- ForeignRowIsRejected. -/
theorem witness_foreign : 48 ≤ (48 : Len16).toNat ∧ (0xFF : Byte) ≠ 0xFE := by decide

/-- FrameIsAccepted (V-SRC-1) and FrameIsRejectedOnChecksum (V-SRC-7), the bytes from their fields. -/
theorem witness_frame :
    crc8 ((0 : Nibble) ++ (0x3C : Byte).extractLsb' 4 4) ((0x3C : Byte).extractLsb' 0 4 ++ (0x1D6 : Temp12).extractLsb' 8 4)
      ((0x1D6 : Temp12).extractLsb' 0 8) 0x82 = 0x7B ∧
    crc8 ((0 : Nibble) ++ (0x3C : Byte).extractLsb' 4 4) ((0x3C : Byte).extractLsb' 0 4 ++ (0x1D7 : Temp12).extractLsb' 8 4)
      ((0x1D7 : Temp12).extractLsb' 0 8) 0x82 ≠ 0x7B := by decide +kernel

/-- DecodeLeavesTheRowAsTaken, its last clause. -/
theorem witness_no_frame : ∀ len u id treg hum crc, Instr.decodeShort 47 0 ≠ .decodeFrame len u id treg hum crc := by
  intros
  simp

/-- AcceptedRowIsTheBuiltFrame (an ordinary register and negative zero, V-EXT-7), SingleBitErrorIsCaught and
MarkerChangeIsCaughtByTheMarkerCheck. -/
theorem witness_accepted_rows :
    decodeRow 48 0xFE000FFF0030 = .accept 0 (-2047) 0 ∧ tregField 0xFE000FFF0030 ≠ 0x800 ∧
    decodeRow 48 0xFE0008000052 = .accept 0 0 0 ∧ tregField 0xFE0008000052 = 0x800 := by decide +kernel

/-- UnsampledInputsAreIgnored, each clause's premises. -/
theorem witness_unsampled :
    resetPins.rst = true ∧ ({ resetPins with inLen := 7 } : Pins).rst = true ∧
    (inState .chkLen 48 0).state ≠ .idle ∧ (inState .chkLen 48 0).state ≠ .result ∧
    (Pins.offer 48 1).rst = Pins.quiet.rst ∧ (Pins.offer 48 1).outReady = Pins.quiet.outReady := by decide

/-- SignMagnitudeDecoding, at the sign boundary. -/
theorem witness_sign : (0x7FF : Temp12).getLsbD 11 = false ∧ (0x800 : Temp12).getLsbD 11 = true := by decide

/-- ReadingIsExact, and ReadingWordPacksTheResult for an accepting decode. -/
theorem witness_reading : crcFails (frameWord 0 0x3C 0x1D6 0x82 0x7B) = false := by decide +kernel

/-- ReadingWordPacksTheResult: a rejecting decode. -/
theorem witness_rejected : (after (exec (.decodeShort 47 0) State.reset)).map State.outAcc = some false := by decide

/-- BuiltFrameIsAccepted and RenderedTemperatureIsExact: both ends of the range. -/
theorem witness_temperature_range :
    (-2047 : Int) ≤ -2047 ∧ (-2047 : Int) ≤ 2047 ∧ (-2047 : Int) ≤ 2047 ∧ (2047 : Int) ≤ 2047 := by decide

/-- RecordOnlyForAcceptedResult. -/
theorem witness_record :
    (Decoded.reject .short).ports.accept = false ∧ (Decoded.accept 0 0 0).ports.accept = true := by decide

/-- LatencyByOutcome, its last clause: the consumer is ready at the first edge of RESULT. -/
theorem witness_earliest_result :
    (edges 2 (withPins [Pins.offer 47 0, Pins.quiet, readyPins])).nextPins.outReady = true ∧
    (edges 2 (withPins [Pins.offer 47 0, Pins.quiet, readyPins])).nextPins.rst = false := by decide

/-- OnlyTwoWaits, its first two clauses. -/
theorem witness_busy :
    (inState .chkLen 48 0).state ≠ .idle ∧ (inState .chkLen 48 0).state ≠ .result ∧ (inState .chkLen 48 0).noResetFor 36 ∧
    State.reset.nextPins.rst = false := by decide

/-- EveryEdgeKeepsTheInvariant, EveryStepKeepsTheInvariant, ReadingWordPacksTheResult: a state in RESULT that meets the
invariant. -/
theorem witness_inv : Inv { inState .result 47 0 with outRsn := .short } :=
  ⟨by change State.resultPorts _ = _; decide, fun _ => rfl, by decide, by decide, by decide⟩

/-- ResultsAnswerRowsInOrder: a run with two events, its row answered. -/
theorem witness_events :
    (withPins [Pins.offer 47 0, Pins.quiet, readyPins]).state = .idle ∧
    events 3 (withPins [Pins.offer 47 0, Pins.quiet, readyPins]) =
      [.taken 47 0, .given { accept := false, reason := .short, id := 0, temp := 0, hum := 0 }] := by decide

end Sys2Proof.Tests
end

/-! # The state: its outputs, the step at a handshake, and the rows and results of a run (10_state.md) -/

section
/-!
The outputs and the step.
-/
namespace Sys2Proof.Machine

/-! ## The outputs (R25) -/

theorem St3.beq_idle_eq_code (t : St3) : (t == .idle) = decide (t.code = 0b000) := by
  cases t <;> rfl

theorem St3.beq_result_eq_code (t : St3) : (t == .result) = decide (t.code = 0b110) := by
  cases t <;> rfl

/-- Settles O52: the two handshake outputs are decoded from the state code and the others are registers, so the
environment's levels drive none of them. -/
theorem outputsAreRegisterDriven : Obligations.OutputsAreRegisterDriven := by
  unfold Obligations.OutputsAreRegisterDriven
  intro s
  refine ⟨?_, fun ps => rfl⟩
  rw [State.outputs, St3.beq_idle_eq_code, St3.beq_result_eq_code]

/-! ## The input handshake (R21, R111) -/

theorem offered_of_takes {s : State} {len : Len16} {data : Frame48} (h : s.takes len data) :
    s.offered = some (decode len data) := by
  obtain ⟨hs, hr, hv, rfl, rfl⟩ := h
  exact (offered_some_iff s _).mpr ⟨⟨hs, hr, hv, rfl, rfl⟩, rfl⟩

/-- The edge of an input handshake captures the row. -/
theorem edge_of_takes {s : State} {len : Len16} {data : Frame48} (h : s.takes len data) :
    edge s = (s.elapse 1).capture len data := by
  obtain ⟨hs, hr, hv, rfl, rfl⟩ := h
  rw [edge_of_noReset s hr]
  simp [arm, hs, armIdle, hv]

/-- No reset among the levels after the handshake's own: nothing abandons the decode (R232). -/
theorem abandonedAt_eq_none {s : State} {i : Instr} (h : s.noResetFor (1 + latency i)) : s.abandonedAt i = none := by
  rw [Nat.add_comm, State.noResetFor_succ s (s.elapse 1) _ rfl] at h
  exact (firstReset_none_iff _ _).mpr h.2

/-- Settles O8: the row is offered and its decode is not abandoned, which is the third case of a step. -/
theorem stepRunsTheRowTaken : Obligations.StepRunsTheRowTaken := by
  unfold Obligations.StepRunsTheRowTaken
  intro s len data ht hr
  simp [step, offered_of_takes ht, abandonedAt_eq_none hr]

end Sys2Proof.Machine
end

section
/-!
The bit-serial CRC of CRC_RUN is the bytewise CRC of rule R131 (R133, R134).
-/
namespace Sys2Proof.Machine

/-! ## One byte -/

/-- The bits of a byte in transmission order (R10). -/
def byteBits (b : Byte) (n : Nat) : List Bool := (List.range n).map fun j => b.getLsbD (7 - j)

theorem byteBits_succ (b : Byte) (n : Nat) : byteBits b (n + 1) = byteBits b n ++ [b.getLsbD (7 - n)] := by
  simp [byteBits, List.range_succ]

theorem crcShifts_succ (n : Nat) (c : Byte) : crcShifts (n + 1) c = crcShift (crcShifts n c) := by
  induction n generalizing c with
  | zero => rfl
  | succ n ih => exact ih (crcShift c)

/-- A bytewise shift of the register with a byte in place takes the byte's top bit serially and moves the rest up. -/
theorem crcShift_xor_eq_crcStep (c b : Byte) : crcShift (c ^^^ b) = crcStep c b.msb ^^^ (b <<< 1) := by
  rw [crcShift, crcStep, BitVec.msb_xor, BitVec.shiftLeft_xor_distrib]
  split
  · rw [BitVec.xor_assoc, BitVec.xor_comm (b <<< 1), BitVec.xor_assoc]
  · rfl

theorem msb_shiftLeft_byte (b : Byte) {n : Nat} (h : n < 8) : (b <<< n).msb = b.getLsbD (7 - n) := by
  rw [BitVec.msb_eq_getLsbD_last, BitVec.getLsbD_shiftLeft]
  simp [show ¬ 7 < n by omega]

/-- After `n` shifts of a register with a byte in place, `n` of the byte's bits are taken and the others wait above. -/
theorem crcShifts_xor_eq_crcFold (c b : Byte) (n : Nat) (h : n ≤ 8) :
    crcShifts n (c ^^^ b) = crcFold c (byteBits b n) ^^^ (b <<< n) := by
  induction n with
  | zero => simp [crcShifts, byteBits]
  | succ n ih =>
    rw [crcShifts_succ, ih (by omega), crcShift_xor_eq_crcStep, msb_shiftLeft_byte b (by omega), byteBits_succ,
      crcFold_append, crcFold_cons, crcFold_nil, BitVec.shiftLeft_add]

/-- R133 for one byte: eight serial steps are one bytewise step. -/
theorem crcFold_byteBits (c b : Byte) : crcFold c (byteBits b 8) = crcShifts 8 (c ^^^ b) := by
  rw [crcShifts_xor_eq_crcFold c b 8 (le_refl 8), BitVec.shiftLeft_eq_zero (le_refl 8), BitVec.xor_zero]

/-! ## The row bits -/

/-- Row bit `k` is bit `47 - k` of the word (R51). -/
theorem rowBit_eq_getLsbD (w : Frame48) {k : Nat} (h : k < 48) : rowBit w k = w.getLsbD (47 - k) := by
  have hk : k / 8 < 6 := by omega
  rw [rowBit, dif_pos hk, rowByte_getLsbD, show 40 - 8 * (k / 8) + (7 - k % 8) = 47 - k by omega]
  simp [show 7 - k % 8 < 8 by omega]

theorem rowBits_add (w : Frame48) (lo m n : Nat) : rowBits w lo (m + n) = rowBits w lo m ++ rowBits w (lo + m) n := by
  simp [rowBits, List.range_add, Nat.add_assoc]

/-- Eight row bits from the start of a byte are the byte (R10). -/
theorem rowBits_byte (w : Frame48) (i : Fin 6) : rowBits w (8 * i) 8 = byteBits (rowByte w i) 8 := by
  refine List.map_congr_left fun j hj => ?_
  have hj : j < 8 := List.mem_range.mp hj
  rw [rowBit_eq_getLsbD w (by omega), rowByte_getLsbD, show 40 - 8 * (i : Nat) + (7 - j) = 47 - (8 * i + j) by omega]
  simp [show 7 - j < 8 by omega]

/-- R134: the fold of the 32 covered row bits is the CRC of bytes 1..4. -/
theorem crcFold_coveredBits (w : Frame48) :
    crcFold Config.crcInit (rowBits w 8 32) = crc8 (rowByte w 1) (rowByte w 2) (rowByte w 3) (rowByte w 4) := by
  have bytes : rowBits w 8 32 = byteBits (rowByte w 1) 8 ++ (byteBits (rowByte w 2) 8 ++
      (byteBits (rowByte w 3) 8 ++ byteBits (rowByte w 4) 8)) := by
    rw [← rowBits_byte, ← rowBits_byte, ← rowBits_byte, ← rowBits_byte]
    exact (rowBits_add w 8 8 24).trans (congrArg _ ((rowBits_add w 16 8 16).trans (congrArg _ (rowBits_add w 24 8 8))))
  rw [bytes, crc8_eq, crcFold_append, crcFold_append, crcFold_append]
  simp only [crcFold_byteBits]

/-- One CRC_RUN edge takes the next row bit (R114). -/
theorem crcFold_nextBit (w : Frame48) (cnt : Count5) :
    crcStep (crcFold Config.crcInit (rowBits w 8 cnt.toNat)) (crcInputBit Config.crcConvention w cnt) =
      crcFold Config.crcInit (rowBits w 8 (cnt.toNat + 1)) := by
  have bit : rowBit w (8 + cnt.toNat) = crcInputBit Config.crcConvention w cnt := by
    rw [rowBit_eq_getLsbD w (by omega), crcInputBit_default, show 47 - (8 + cnt.toNat) = 39 - cnt.toNat by omega]
  rw [rowBits_succ, crcFold_append, bit, crcFold_cons, crcFold_nil]

end Sys2Proof.Machine
end

section
/-!
A decode in flight. `State.DecodingAt` says that a row is in the registers and how many edges have passed since its capture;
every edge of the state machine carries it on, and it fixes the edge and the value of the result.
-/
namespace Sys2Proof.Machine

section decodeRow

variable {len : Len16} {w : Frame48}

/-! ## The decode function, case by case (R101, R102) -/

theorem decodeRow_of_short (hl : len.toNat < 48) : decodeRow len w = .reject .short :=
  if_pos hl

theorem decodeRow_of_marker (hl : 48 ≤ len.toNat) (hm : rowByte w 0 ≠ Config.marker) :
    decodeRow len w = .reject .marker := by
  simp [decodeRow, Config.minLenBits, hl, hm]

theorem decodeRow_of_crc (hl : 48 ≤ len.toNat) (hm : rowByte w 0 = Config.marker)
    (hc : crc8 (rowByte w 1) (rowByte w 2) (rowByte w 3) (rowByte w 4) ≠ rowByte w 5) :
    decodeRow len w = .reject .crc := by
  simp [decodeRow, Config.minLenBits, hl, hm, hc]

theorem decodeRow_of_accept (hl : 48 ≤ len.toNat) (hm : rowByte w 0 = Config.marker)
    (hc : crc8 (rowByte w 1) (rowByte w 2) (rowByte w 3) (rowByte w 4) = rowByte w 5) :
    decodeRow len w = .accept (idOf w) (sm12 (tregOf w)) (humOf w) := by
  simp [decodeRow, Config.minLenBits, hl, hm, hc]

/-- A row that passes the length and the marker check is decided by its checksum, 35 edges in or later (R240). -/
theorem thirtyFive_le_latency (hl : 48 ≤ len.toNat) (hm : rowByte w 0 = Config.marker) :
    35 ≤ (decodeRow len w).latency := by
  by_cases hc : crc8 (rowByte w 1) (rowByte w 2) (rowByte w 3) (rowByte w 4) = rowByte w 5
  · simp [decodeRow_of_accept hl hm hc, Decoded.latency]
  · simp [decodeRow_of_crc hl hm hc, Decoded.latency]

theorem two_le_latency (hl : 48 ≤ len.toNat) : 2 ≤ (decodeRow len w).latency := by
  by_cases hm : rowByte w 0 = Config.marker
  · exact le_trans (by decide) (thirtyFive_le_latency hl hm)
  · simp [decodeRow_of_marker hl hm, Decoded.latency]

theorem latency_pos : 0 < (decodeRow len w).latency := by
  by_cases hl : 48 ≤ len.toNat
  · exact lt_of_lt_of_le (by decide) (two_le_latency hl)
  · simp [decodeRow_of_short (Nat.not_le.mp hl), Decoded.latency]

/-! ## The decoder, class by class (R77) -/

theorem decode_of_short (hl : len.toNat < 48) : decode len w = .decodeShort len w :=
  if_pos hl

theorem decode_of_foreign (hl : 48 ≤ len.toNat) (hm : rowByte w 0 ≠ Config.marker) :
    decode len w = .decodeForeign len (markerField w) (restField w) := by
  rw [decode, if_neg (show ¬ len.toNat < Config.minLenBits from Nat.not_lt.mpr hl), if_neg (mt (frameMask_iff w).mp hm)]

theorem decode_of_frame (hl : 48 ≤ len.toNat) (hm : rowByte w 0 = Config.marker) :
    decode len w =
      .decodeFrame len (unusedField w) (idField w) (tregField w) (humField w) (crcField w) := by
  rw [decode, if_neg (show ¬ len.toNat < Config.minLenBits from Nat.not_lt.mpr hl), if_pos ((frameMask_iff w).mpr hm)]

/-- The class a row decodes to takes the edges of the row's outcome (R77, R240). -/
theorem latency_decode : latency (decode len w) = (decodeRow len w).latency := by
  by_cases hl : len.toNat < 48
  · rw [decode_of_short hl, decodeRow_of_short hl]
    rfl
  have hl : 48 ≤ len.toNat := Nat.not_lt.mp hl
  by_cases hm : rowByte w 0 = Config.marker
  · rw [decode_of_frame hl hm, latency, frameWord_fields w hm]
    by_cases hc : crc8 (rowByte w 1) (rowByte w 2) (rowByte w 3) (rowByte w 4) = rowByte w 5
    · rw [decodeRow_of_accept hl hm hc, if_neg fun h => (crcFails_iff w).mp h hc]
      rfl
    · rw [decodeRow_of_crc hl hm hc, if_pos ((crcFails_iff w).mpr hc)]
      rfl
  · rw [decode_of_foreign hl hm, decodeRow_of_marker hl hm]
    rfl

end decodeRow

theorem lenFails_iff (len : Len16) : lenFails len = true ↔ len.toNat < 48 :=
  decide_eq_true_iff

theorem markerFails_iff (w : Frame48) : markerFails w = true ↔ rowByte w 0 ≠ Config.marker :=
  bne_iff_ne

/-! ## The position of a decode -/

/-- The edges that have passed since the capture of the row in the registers, as the sequencer's state and the counter tell
it (R111-R116, R240). In RESULT it is the count at which the result came up; waits add nothing. -/
def State.age (s : State) : Nat :=
  match s.state with
  | .idle | .unused => 0
  | .chkLen => 0
  | .chkMark => 1
  | .crcRun => 2 + s.cnt.toNat
  | .chkCrc => 34
  | .extract => 35
  | .result => (decodeRow s.lenR s.frameR).latency

/-- The row `len`, `data` is in the registers, `k` edges after its capture, with all that its state knows of it. -/
structure State.DecodingAt (s : State) (len : Len16) (data : Frame48) (k : Nat) : Prop where
  lenR : s.lenR = len
  frameR : s.frameR = data
  busy : s.state ≠ .idle
  phase : s.phaseInv
  age : s.age = k

/-- A state in flight has not come to the edge of its result. -/
theorem age_lt_latency {s : State} (h : s.phaseInv) (hi : s.state ≠ .idle) (hr : s.state ≠ .result) :
    s.age < (decodeRow s.lenR s.frameR).latency := by
  unfold State.phaseInv at h
  unfold State.age
  cases hs : s.state <;> rw [hs] at h
  case idle => exact absurd hs hi
  case result => exact absurd hs hr
  case unused => exact h.elim
  case chkLen => exact latency_pos
  case chkMark => exact two_le_latency h
  case crcRun =>
    obtain ⟨hl, hm, -⟩ := h
    exact lt_of_lt_of_le (by dsimp only; omega) (thirtyFive_le_latency hl hm)
  case chkCrc =>
    obtain ⟨hl, hm, -⟩ := h
    exact lt_of_lt_of_le (Nat.lt_succ_self 34) (thirtyFive_le_latency hl hm)
  case extract =>
    obtain ⟨hl, hm, hc⟩ := h
    simp [decodeRow_of_accept hl hm hc, Decoded.latency]

/-- The result stands exactly at the edge of the row's latency (R240). -/
theorem State.DecodingAt.state_eq_result_iff {s : State} {len : Len16} {data : Frame48} {k : Nat}
    (h : s.DecodingAt len data k) : s.state = .result ↔ k = (decodeRow len data).latency := by
  obtain ⟨rfl, rfl, busy, phase, rfl⟩ := h
  constructor
  · intro hs
    simp [State.age, hs]
  · intro hk
    by_contra hs
    exact absurd hk (age_lt_latency phase busy hs).ne

/-- In RESULT the registers are the decode function's answer (R101). -/
theorem resultPorts_of_phaseInv {s : State} (h : s.phaseInv) (hs : s.state = .result) :
    s.resultPorts = (decodeRow s.lenR s.frameR).ports := by
  unfold State.phaseInv at h
  rwa [hs] at h

/-! ## The arms carry a decode on -/

theorem decodingAt_reject {s : State} {c : Cause} (h : decodeRow s.lenR s.frameR = .reject c) :
    (s.reject c).DecodingAt s.lenR s.frameR (Decoded.reject c).latency where
  lenR := rfl
  frameR := rfl
  busy := nofun
  phase := by
    change (s.reject c).resultPorts = (decodeRow s.lenR s.frameR).ports
    rw [h]
    rfl
  age := congrArg Decoded.latency h

theorem decodingAt_armChkLen (s : State) : (armChkLen s).DecodingAt s.lenR s.frameR 1 := by
  unfold armChkLen
  split
  case isTrue h => exact decodingAt_reject (decodeRow_of_short ((lenFails_iff _).mp h))
  case isFalse h => exact ⟨rfl, rfl, nofun, Nat.not_lt.mp (mt (lenFails_iff _).mpr h), rfl⟩

theorem decodingAt_armChkMark {s : State} (hl : s.lenPassed) : (armChkMark s).DecodingAt s.lenR s.frameR 2 := by
  unfold armChkMark
  split
  case isTrue h => exact decodingAt_reject (decodeRow_of_marker hl ((markerFails_iff _).mp h))
  case isFalse h => exact ⟨rfl, rfl, nofun, ⟨hl, not_not.mp (mt (markerFails_iff _).mpr h), rfl⟩, rfl⟩

theorem toNat_add_one_of_ne {n : Count5} (h : n ≠ 31) : (n + 1).toNat = n.toNat + 1 := by
  bv_omega

theorem decodingAt_armCrcRun {s : State} (hl : s.lenPassed) (hm : s.markerPassed)
    (hc : s.crcR = crcFold Config.crcInit (rowBits s.frameR 8 s.cnt.toNat)) :
    (armCrcRun s).DecodingAt s.lenR s.frameR (2 + s.cnt.toNat + 1) := by
  have next : crcStep s.crcR (crcInputBit Config.crcConvention s.frameR s.cnt) =
      crcFold Config.crcInit (rowBits s.frameR 8 (s.cnt.toNat + 1)) := by
    rw [hc, crcFold_nextBit]
  unfold armCrcRun
  split
  case isTrue h =>
    rw [h] at next ⊢
    exact ⟨rfl, rfl, nofun, ⟨hl, hm, next.trans (crcFold_coveredBits s.frameR)⟩, rfl⟩
  case isFalse h =>
    rw [← toNat_add_one_of_ne h] at next
    exact ⟨rfl, rfl, nofun, ⟨hl, hm, next⟩, congrArg (2 + ·) (toNat_add_one_of_ne h)⟩

theorem decodingAt_armChkCrc {s : State} (hl : s.lenPassed) (hm : s.markerPassed)
    (hc : s.crcR = crc8 (rowByte s.frameR 1) (rowByte s.frameR 2) (rowByte s.frameR 3) (rowByte s.frameR 4)) :
    (armChkCrc s).DecodingAt s.lenR s.frameR 35 := by
  unfold armChkCrc
  split
  case isTrue h => exact decodingAt_reject (decodeRow_of_crc hl hm (hc ▸ (checksumFails_iff _ _).mp h))
  case isFalse h =>
    exact ⟨rfl, rfl, nofun, ⟨hl, hm, hc ▸ not_not.mp (mt (checksumFails_iff _ _).mpr h)⟩, rfl⟩

theorem decodingAt_armExtract {s : State} (hl : s.lenPassed) (hm : s.markerPassed)
    (hc : crc8 (rowByte s.frameR 1) (rowByte s.frameR 2) (rowByte s.frameR 3) (rowByte s.frameR 4) =
      rowByte s.frameR 5) : (armExtract s).DecodingAt s.lenR s.frameR 36 where
  lenR := rfl
  frameR := rfl
  busy := nofun
  phase := by
    change (armExtract s).resultPorts = (decodeRow s.lenR s.frameR).ports
    rw [decodeRow_of_accept hl hm hc]
    rfl
  age := congrArg Decoded.latency (decodeRow_of_accept hl hm hc)

/-- The edge of an input handshake begins the decode of the row taken (R111). -/
theorem decodingAt_edge_of_takes {s : State} {len : Len16} {data : Frame48} (h : s.takes len data) :
    (edge s).DecodingAt len data 0 := by
  rw [edge_of_takes h]
  exact ⟨rfl, rfl, nofun, trivial, rfl⟩

/-- An edge in flight keeps the row and takes the decode one edge further (R112-R116). -/
theorem decodingAt_edge {s : State} (h : s.phaseInv) (hi : s.state ≠ .idle) (hr : s.state ≠ .result)
    (hrst : s.nextPins.rst = false) : (edge s).DecodingAt s.lenR s.frameR (s.age + 1) := by
  rw [edge_of_noReset s hrst]
  unfold State.phaseInv at h
  unfold arm State.age
  rw [State.elapse_state]
  cases hs : s.state <;> rw [hs] at h
  case idle => exact absurd hs hi
  case result => exact absurd hs hr
  case unused => exact h.elim
  case chkLen => exact decodingAt_armChkLen (s.elapse 1)
  case chkMark => exact decodingAt_armChkMark (s := s.elapse 1) h
  case crcRun =>
    obtain ⟨hl, hm, hc⟩ := h
    exact decodingAt_armCrcRun (s := s.elapse 1) hl hm hc
  case chkCrc =>
    obtain ⟨hl, hm, hc⟩ := h
    exact decodingAt_armChkCrc (s := s.elapse 1) hl hm hc
  case extract =>
    obtain ⟨hl, hm, hc⟩ := h
    exact decodingAt_armExtract (s := s.elapse 1) hl hm hc

/-! ## The whole decode -/

/-- The edges up to the row's latency carry the decode on, one by one. -/
theorem State.DecodingAt.edges {s : State} {len : Len16} {data : Frame48} {k : Nat} (h : s.DecodingAt len data k)
    (n : Nat) (hn : k + n ≤ (decodeRow len data).latency) (hr : s.noResetFor n) :
    (edges n s).DecodingAt len data (k + n) := by
  induction n generalizing s k with
  | zero => exact h
  | succ n ih =>
    obtain ⟨hrst, hrest⟩ := (State.noResetFor_succ s (edge s) n (edge_pins s)).mp hr
    have hs : s.state ≠ .result := mt h.state_eq_result_iff.mp (by omega)
    have next : (edge s).DecodingAt len data (k + 1) := by
      obtain ⟨rfl, rfl, busy, phase, rfl⟩ := h
      exact decodingAt_edge phase busy hs hrst
    have rest := ih next (by omega) hrest
    rwa [Nat.add_assoc, Nat.add_comm 1 n] at rest

/-- The decode of a row taken, `n` edges after its input handshake. -/
theorem decodingAt_of_takes {s : State} {len : Len16} {data : Frame48} (ht : s.takes len data) (n : Nat)
    (hn : n ≤ (decodeRow len data).latency) (hr : s.noResetFor (1 + n)) :
    (edges (1 + n) s).DecodingAt len data n := by
  rw [Nat.add_comm] at hr ⊢
  have rest := ((State.noResetFor_succ s (edge s) n (edge_pins s)).mp hr).2
  simpa [edges_succ] using (decodingAt_edge_of_takes ht).edges n (by omega) rest

/-- R101 at the edges: the row taken is in RESULT after its latency, with the decode function's ports. -/
theorem edges_of_takes {s : State} {len : Len16} {data : Frame48} (ht : s.takes len data)
    (hr : s.noResetFor (1 + latency (decode len data))) :
    (edges (1 + latency (decode len data)) s).state = .result ∧
    (edges (1 + latency (decode len data)) s).resultPorts = (decodeRow len data).ports := by
  rw [latency_decode] at hr ⊢
  have done := decodingAt_of_takes ht _ (le_refl _) hr
  have state := done.state_eq_result_iff.mpr rfl
  refine ⟨state, ?_⟩
  rw [resultPorts_of_phaseInv done.phase state, done.lenR, done.frameR]

/-- Settles O36: both blocks come to RESULT with the decode function's ports for the one row. -/
theorem resultDependsOnTheRowAlone : Obligations.ResultDependsOnTheRowAlone := by
  unfold Obligations.ResultDependsOnTheRowAlone
  intro s s' len data ht ht' hr hr'
  obtain ⟨state, ports⟩ := edges_of_takes ht hr
  obtain ⟨state', ports'⟩ := edges_of_takes ht' hr'
  exact ⟨state, state', ports.trans ports'.symm⟩

end Sys2Proof.Machine
end

section
/-!
The rows and results of a run (R21, R59, R106, R232). The row in flight is the one event of the past that the rest of a run
still answers; with it in front, an edge changes nothing of whether the events pair up.
-/
namespace Sys2Proof.Machine

/-! ## The edges that begin and end in a wait -/

theorem phaseInv_of_idle {s : State} (h : s.state = .idle) : s.phaseInv := by
  simp [State.phaseInv, h]

theorem edge_idle_wait {s : State} (hs : s.state = .idle) (hr : s.nextPins.rst = false) (hv : s.nextPins.inValid = false) :
    edge s = (s.elapse 1).goto .idle := by
  simp [edge_of_noReset s hr, arm, hs, armIdle, hv]

theorem edge_result_given {s : State} (hs : s.state = .result) (hr : s.nextPins.rst = false)
    (ho : s.nextPins.outReady = true) : edge s = (s.elapse 1).goto .idle := by
  simp [edge_of_noReset s hr, arm, hs, armResult, ho]

theorem edge_result_wait {s : State} (hs : s.state = .result) (hr : s.nextPins.rst = false)
    (ho : s.nextPins.outReady = false) : edge s = s.elapse 1 := by
  simp only [edge_of_noReset s hr, arm, State.elapse_state, hs, armResult, ho]
  rw [← hs]
  rfl

/-! ## The event of an edge -/

theorem event_of_reset {s : State} (hr : s.nextPins.rst = true) : s.event = some .reset := if_pos hr

theorem event_of_takes {s : State} {len : Len16} {data : Frame48} (h : s.takes len data) :
    s.event = some (.taken len data) := by
  obtain ⟨hs, hr, hv, rfl, rfl⟩ := h
  simp [State.event, State.inputHandshake, hs, hr, hv]

theorem event_of_given {s : State} (hs : s.state = .result) (hr : s.nextPins.rst = false)
    (ho : s.nextPins.outReady = true) : s.event = some (.given s.resultPorts) := by
  simp [State.event, State.inputHandshake, State.resultHandshake, hs, hr, ho]

/-- No event at an edge without reset at which IDLE is offered no row and RESULT meets no ready consumer. -/
theorem event_eq_none {s : State} (hr : s.nextPins.rst = false) (hi : s.state = .idle → s.nextPins.inValid = false)
    (ho : s.state = .result → s.nextPins.outReady = false) : s.event = none := by
  have noRow : s.inputHandshake = false := by simpa [State.inputHandshake, hr] using hi
  have noResult : s.resultHandshake = false := by simpa [State.resultHandshake, hr] using ho
  simp [State.event, hr, noRow, noResult]

/-! ## The row in flight -/

/-- The row taken and not yet answered, as the event that it was. -/
def State.pending (s : State) : List Event := if s.state = .idle then [] else [.taken s.lenR s.frameR]

theorem pending_of_idle {s : State} (h : s.state = .idle) : s.pending = [] := if_pos h

theorem pending_of_busy {s : State} (h : s.state ≠ .idle) : s.pending = [.taken s.lenR s.frameR] := if_neg h

theorem State.DecodingAt.pending {s : State} {len : Len16} {data : Frame48} {k : Nat} (h : s.DecodingAt len data k) :
    s.pending = [.taken len data] := by
  rw [pending_of_busy h.busy, h.lenR, h.frameR]

theorem wellPaired_pending (s : State) : wellPaired s.pending = true := by
  unfold State.pending
  split <;> rfl

/-- A reset drops the row in flight (R232). -/
theorem wellPaired_pending_reset (s : State) (es : List Event) :
    wellPaired (s.pending ++ .reset :: es) = wellPaired es := by
  unfold State.pending
  split <;> rfl

/-- One edge of a run: the state after it still knows what it should, and the row in flight and the events to come pair up
exactly when they did before the edge. -/
structure EdgePairs (s : State) : Prop where
  phase : (edge s).phaseInv
  paired : ∀ es, wellPaired (s.pending ++ (s.event.toList ++ es)) = wellPaired ((edge s).pending ++ es)

theorem edgePairs_reset {s : State} (hr : s.nextPins.rst = true) : EdgePairs s := by
  have after : (edge s).state = .idle := by rw [edge_of_reset s hr]; rfl
  refine ⟨phaseInv_of_idle after, fun es => ?_⟩
  rw [event_of_reset hr, pending_of_idle after]
  exact wellPaired_pending_reset s es

theorem edgePairs_idle {s : State} (hs : s.state = .idle) (hr : s.nextPins.rst = false) : EdgePairs s := by
  cases hv : s.nextPins.inValid
  · have after : (edge s).state = .idle := by rw [edge_idle_wait hs hr hv]; rfl
    refine ⟨phaseInv_of_idle after, fun es => ?_⟩
    rw [event_eq_none hr (fun _ => hv) (by simp [hs]), pending_of_idle hs, pending_of_idle after]
    rfl
  · have taken : s.takes s.nextPins.inLen s.nextPins.inData := ⟨hs, hr, hv, rfl, rfl⟩
    have start := decodingAt_edge_of_takes taken
    refine ⟨start.phase, fun es => ?_⟩
    rw [event_of_takes taken, pending_of_idle hs, start.pending]
    rfl

/-- The result given is the row's own: that is what RESULT knows. -/
theorem edgePairs_result {s : State} (h : s.phaseInv) (hs : s.state = .result) (hr : s.nextPins.rst = false) :
    EdgePairs s := by
  have busy : s.state ≠ .idle := by simp [hs]
  cases ho : s.nextPins.outReady
  · have held := edge_result_wait hs hr ho
    refine ⟨held ▸ h, fun es => ?_⟩
    rw [event_eq_none hr (fun hi => absurd hi busy) (fun _ => ho), held]
    rfl
  · have after : (edge s).state = .idle := by rw [edge_result_given hs hr ho]; rfl
    refine ⟨phaseInv_of_idle after, fun es => ?_⟩
    rw [event_of_given hs hr ho, pending_of_busy busy, pending_of_idle after]
    simp [wellPaired, resultPorts_of_phaseInv h hs]

theorem edgePairs_inFlight {s : State} (h : s.phaseInv) (hi : s.state ≠ .idle) (hs : s.state ≠ .result)
    (hr : s.nextPins.rst = false) : EdgePairs s := by
  have next := decodingAt_edge h hi hs hr
  refine ⟨next.phase, fun es => ?_⟩
  rw [event_eq_none hr (fun h => absurd h hi) (fun h => absurd h hs), pending_of_busy hi, next.pending]
  rfl

theorem edgePairs {s : State} (h : s.phaseInv) : EdgePairs s := by
  cases hr : s.nextPins.rst
  case true => exact edgePairs_reset hr
  case false =>
    by_cases hi : s.state = .idle
    · exact edgePairs_idle hi hr
    · by_cases hs : s.state = .result
      · exact edgePairs_result h hs hr
      · exact edgePairs_inFlight h hi hs hr

/-! ## The run -/

/-- From every state that knows what it should, the row in flight and the events of any run pair up. -/
theorem wellPaired_run (n : Nat) {s : State} (h : s.phaseInv) : wellPaired (s.pending ++ events n s) = true := by
  induction n generalizing s with
  | zero => simpa [events] using wellPaired_pending s
  | succ n ih =>
    obtain ⟨phase, paired⟩ := edgePairs h
    rw [events, paired]
    exact ih phase

/-- Settles O59: an idle block has no row in flight, and its phase asks nothing. -/
theorem resultsAnswerRowsInOrder : Obligations.ResultsAnswerRowsInOrder := by
  unfold Obligations.ResultsAnswerRowsInOrder
  intro s n hs
  simpa [pending_of_idle hs] using wellPaired_run n (phaseInv_of_idle hs)

end Sys2Proof.Machine
end

/-! # The row: its bytes and bits, what a producer presents, and what a decode leaves of it (20_memory.md) -/

section
/-!
The positions of the row's bytes and bits, on the port and in FRAME_R.
-/
namespace Sys2Proof.Machine

/-- Packing six bytes and reading one of them back (R51). At a bit of byte `i` the bounds of the word's lower bytes fail and
byte `i`'s own holds, so the packed word's bit is that byte's. -/
theorem rowByte_packBytes (b0 b1 b2 b3 b4 b5 : Byte) (i : Fin 6) :
    rowByte (packBytes b0 b1 b2 b3 b4 b5) i = [b0, b1, b2, b3, b4, b5][i.val]! := by
  refine BitVec.eq_of_getLsbD_eq fun j hj => ?_
  rw [rowByte_getLsbD, packBytes_getLsbD]
  fin_cases i <;> simp (disch := omega) [hj, if_pos, if_neg] <;> rfl

/-- Row bit `k` is read from byte `k div 8`, most significant bit first (R10). -/
theorem rowBit_eq_rowByte_getLsbD (w : Frame48) {k : Nat} (h : k / 8 < 6) :
    rowBit w k = (rowByte w ⟨k / 8, h⟩).getLsbD (7 - k % 8) :=
  dif_pos h

theorem edge_frameR_of_takes {s : State} {len : Len16} {data : Frame48} (h : s.takes len data) :
    (edge s).frameR = data := by
  rw [edge_of_takes h, State.capture_frameR]

/-- Settles O5: the byte positions are those of the packed word, and the capture loads the word as it stands. -/
theorem rowBitsAreMsbFirst : Obligations.RowBitsAreMsbFirst := by
  unfold Obligations.RowBitsAreMsbFirst
  refine ⟨rowByte_packBytes, fun w k h => ⟨rowBit_eq_rowByte_getLsbD w h, rowBit_eq_getLsbD w (by omega)⟩, ?_⟩
  intro s len data ht i
  rw [edge_frameR_of_takes ht, rowByte]

end Sys2Proof.Machine
end

section
/-!
What a producer presents for a bit row (R50, R53, C7). A row below 48 bits is decided by its length alone; a longer one that
is well-formed has all six bytes, so no padding is presented.
-/
namespace Sys2Proof.Machine

theorem presentedLen_toNat (n : Nat) : (presentedLen n).toNat = min n 65535 := by
  rw [presentedLen, BitVec.toNat_ofNat]
  exact Nat.mod_eq_of_lt (by omega)

/-- Saturation (D4) keeps the answer of the length check. -/
theorem presentedLen_short_iff (n : Nat) : (presentedLen n).toNat < 48 ↔ n < 48 := by
  rw [presentedLen_toNat]
  omega

/-- A well-formed row of 48 bits or more has its byte 5 (C7). -/
theorem six_le_length_of_wf {r : BitRow} (hwf : r.wf = true) (hl : 48 ≤ r.lenBits) : 6 ≤ r.bytes.length := by
  have declared : r.lenBits ≤ 8 * r.bytes.length := of_decide_eq_true hwf
  omega

/-- Where the row has its byte, the byte is presented and the padding is not. -/
theorem presentedByte_eq_getElem_take {r : BitRow} (h : 6 ≤ r.bytes.length) (pad : Frame48) (i : Fin 6) :
    r.presentedByte pad i = (r.bytes.take 6)[i.val]'(by simp; omega) := by
  have present : i.val < r.bytes.length := by omega
  simp [BitRow.presentedByte, present]

/-- Two rows of six bytes or more with the same first six present the same word (R50, D3). -/
theorem present_data_eq {r r' : BitRow} (h : 6 ≤ r.bytes.length) (h' : 6 ≤ r'.bytes.length)
    (bytes : r.bytes.take 6 = r'.bytes.take 6) (pad pad' : Frame48) : (r.present pad).2 = (r'.present pad').2 := by
  have same (i : Fin 6) : r.presentedByte pad i = r'.presentedByte pad' i := by
    simp only [presentedByte_eq_getElem_take h, presentedByte_eq_getElem_take h', bytes]
  simp only [BitRow.present, same]

/-- Settles O6: a short row is rejected before its data is read, and a longer one presents its own six bytes. -/
theorem unpresentedBytesNeverMatter : Obligations.UnpresentedBytesNeverMatter := by
  unfold Obligations.UnpresentedBytesNeverMatter
  intro r r' pad pad' hwf hwf' len bytes
  have sameLen : (r.present pad).1 = (r'.present pad').1 := congrArg presentedLen len
  have short_iff : (r.present pad).1.toNat < 48 ↔ r.lenBits < 48 := presentedLen_short_iff r.lenBits
  refine ⟨?_, short_iff⟩
  by_cases hl : r.lenBits < 48
  · have short := short_iff.mpr hl
    rw [decodeRow_of_short short, decodeRow_of_short (sameLen ▸ short)]
  · have six := six_le_length_of_wf hwf (by omega)
    have six' := six_le_length_of_wf hwf' (by omega)
    rw [sameLen, present_data_eq six six' bytes pad pad']

end Sys2Proof.Machine
end

section
/-!
The frame of a decode over the row it took (R55), and the short row, whose data no output reads (R53).
-/
namespace Sys2Proof.Machine

/-! ## The decode classes -/

/-- DECODE.SHORT answers reject(SHORT) on the row as taken (R103). -/
theorem exec_decodeShort (len : Len16) (data : Frame48) (s : State) :
    exec (.decodeShort len data) s = .next ((s.takeRow 1 len data).reject .short) := rfl

/-- DECODE.FOREIGN answers reject(MARKER) on the row as taken (R104). -/
theorem exec_decodeForeign (len : Len16) (m : Byte) (rest : BitVec 40) (s : State) :
    exec (.decodeForeign len m rest) s = .next ((s.takeRow 2 len (foreignWord m rest)).reject .marker) := rfl

/-- DECODE.FRAME with a bad checksum answers reject(CRC), its CRC left in CRC_R (R105). -/
theorem exec_decodeFrame_of_crcFails {u : Nibble} {id : Byte} {treg : Temp12} {hum crc : Byte}
    (h : crcFails (frameWord u id treg hum crc) = true) (len : Len16) (s : State) :
    exec (.decodeFrame len u id treg hum crc) s =
      .next (((s.takeRow 35 len (frameWord u id treg hum crc)).setCrc (rowCrc (frameWord u id treg hum crc)) 0).reject
        .crc) := by
  simp [exec, execFrame, latency, h]

/-- DECODE.FRAME with a good checksum answers the reading, its CRC left in CRC_R (R105, R116). -/
theorem exec_decodeFrame_of_not_crcFails {u : Nibble} {id : Byte} {treg : Temp12} {hum crc : Byte}
    (h : crcFails (frameWord u id treg hum crc) = false) (len : Len16) (s : State) :
    exec (.decodeFrame len u id treg hum crc) s =
      .next (((s.takeRow 36 len (frameWord u id treg hum crc)).setCrc (rowCrc (frameWord u id treg hum crc)) 0).accept
        id (sm12 treg) hum) := by
  simp [exec, execFrame, latency, h]

/-! ## The frame -/

/-- Settles O31, class by class: each takes the row and then writes the result registers, and only DECODE.FRAME writes CRC_R
and CNT. -/
theorem decodeLeavesTheRowAsTaken : Obligations.DecodeLeavesTheRowAsTaken := by
  unfold Obligations.DecodeLeavesTheRowAsTaken
  intro i s
  cases i with
  | decodeShort len data =>
    exact ⟨_, exec_decodeShort len data s, fun _ => rfl, rfl, fun _ => ⟨rfl, rfl⟩⟩
  | decodeForeign len m rest =>
    exact ⟨_, exec_decodeForeign len m rest s, fun _ => rfl, rfl, fun _ => ⟨rfl, rfl⟩⟩
  | decodeFrame len u id treg hum crc =>
    cases hc : crcFails (frameWord u id treg hum crc) with
    | true =>
      exact ⟨_, exec_decodeFrame_of_crcFails hc len s, fun _ => rfl, rfl, fun h => absurd rfl (h len u id treg hum crc)⟩
    | false =>
      exact ⟨_, exec_decodeFrame_of_not_crcFails hc len s, fun _ => rfl, rfl,
        fun h => absurd rfl (h len u id treg hum crc)⟩

/-! ## The short row -/

/-- The length check of a short row ends the decode (R112). -/
theorem edge_chkLen_of_short {s : State} (hs : s.state = .chkLen) (hl : s.lenR.toNat < 48) (hr : s.nextPins.rst = false) :
    edge s = (s.elapse 1).reject .short := by
  have fails : lenFails (s.elapse 1).lenR = true := (lenFails_iff s.lenR).mpr hl
  simp only [edge_of_noReset s hr, arm, State.elapse_state, hs, armChkLen, if_pos fails]

/-- A rejection overwrites every register that drives an output (R25, R108). -/
theorem outputs_reject (s s' : State) (c : Cause) : (s.reject c).outputs = (s'.reject c).outputs := rfl

/-- Settles O34: the decode of a short row and its CHK_LEN edge are the one rejection, or a reset, and neither reads
FRAME_R. -/
theorem shortRowReadsNoData : Obligations.ShortRowReadsNoData := by
  unfold Obligations.ShortRowReadsNoData
  constructor
  · intro len data data' s hl
    rw [decode_of_short hl, decode_of_short hl]
    exact ⟨_, _, exec_decodeShort len data s, exec_decodeShort len data' s, outputs_reject _ _ .short, rfl⟩
  · intro s data hs hl
    cases hr : s.nextPins.rst with
    | true =>
      rw [edge_of_reset s hr, edge_of_reset { s with frameR := data } hr]
      rfl
    | false =>
      rw [edge_chkLen_of_short hs hl hr, edge_chkLen_of_short (s := { s with frameR := data }) hs hl hr]
      exact outputs_reject _ _ .short

end Sys2Proof.Machine
end

/-! # The encoding: the classes and their rows, the frame builder, and the reading word (30_encoding.md) -/

section
/-!
The opcode map and its inverse (R71, R77, R78). A row falls in one of three cases, by its length and its byte 0, and each case
is one decode class.
-/
namespace Sys2Proof.Machine

/-! ## The class a row decodes to -/

/-- The three cases of the opcode map (R77). -/
theorem row_cases (len : Len16) (w : Frame48) :
    len.toNat < 48 ∨ (48 ≤ len.toNat ∧ rowByte w 0 ≠ Config.marker) ∨ (48 ≤ len.toNat ∧ rowByte w 0 = Config.marker) := by
  by_cases hl : len.toNat < 48
  · exact .inl hl
  · by_cases hm : rowByte w 0 = Config.marker
    · exact .inr (.inr ⟨Nat.not_lt.mp hl, hm⟩)
    · exact .inr (.inl ⟨Nat.not_lt.mp hl, hm⟩)

theorem tooShort_iff (len : Len16) : tooShort len = true ↔ len.toNat < 48 :=
  decide_eq_true_iff

theorem tooShort_eq_false_iff (len : Len16) : tooShort len = false ↔ 48 ≤ len.toNat := by
  rw [← Bool.not_eq_true, tooShort_iff, Nat.not_lt]

theorem wf_decodeShort_iff (len : Len16) (data : Frame48) : (Instr.decodeShort len data).wf = true ↔ len.toNat < 48 :=
  tooShort_iff len

theorem wf_decodeForeign_iff (len : Len16) (m : Byte) (rest : BitVec 40) :
    (Instr.decodeForeign len m rest).wf = true ↔ 48 ≤ len.toNat ∧ m ≠ Config.marker := by
  simp [Instr.wf, tooShort_eq_false_iff]

theorem wf_decodeFrame_iff (len : Len16) (u : Nibble) (id : Byte) (treg : Temp12) (hum crc : Byte) :
    (Instr.decodeFrame len u id treg hum crc).wf = true ↔ 48 ≤ len.toNat := by
  simp [Instr.wf, tooShort_eq_false_iff]

theorem decode_wf (len : Len16) (w : Frame48) : (decode len w).wf = true := by
  obtain hl | ⟨hl, hm⟩ | ⟨hl, hm⟩ := row_cases len w
  · rw [decode_of_short hl, wf_decodeShort_iff]
    exact hl
  · rw [decode_of_foreign hl hm, wf_decodeForeign_iff]
    exact ⟨hl, hm⟩
  · rw [decode_of_frame hl hm, wf_decodeFrame_iff]
    exact hl

/-! ## Decode and encode are inverse -/

theorem decode_foreignWord {len : Len16} {m : Byte} (hl : 48 ≤ len.toNat) (hm : m ≠ Config.marker) (rest : BitVec 40) :
    decode len (foreignWord m rest) = .decodeForeign len m rest := by
  rw [decode_of_foreign hl (by rwa [rowByte_zero, markerField_foreignWord]), markerField_foreignWord, restField_foreignWord]

theorem decode_frameWord {len : Len16} (hl : 48 ≤ len.toNat) (u : Nibble) (id : Byte) (treg : Temp12) (hum crc : Byte) :
    decode len (frameWord u id treg hum crc) = .decodeFrame len u id treg hum crc := by
  rw [decode_of_frame hl (by rw [rowByte_zero, markerField_frameWord])]
  simp

theorem decode_encode {i : Instr} (h : i.wf = true) : decode (encode i).1 (encode i).2 = i := by
  cases i with
  | decodeShort len data => exact decode_of_short ((wf_decodeShort_iff len data).mp h)
  | decodeForeign len m rest =>
    obtain ⟨hl, hm⟩ := (wf_decodeForeign_iff len m rest).mp h
    exact decode_foreignWord hl hm rest
  | decodeFrame len u id treg hum crc =>
    exact decode_frameWord ((wf_decodeFrame_iff len u id treg hum crc).mp h) u id treg hum crc

theorem encode_decode (len : Len16) (w : Frame48) : encode (decode len w) = (len, w) := by
  obtain hl | ⟨hl, hm⟩ | ⟨hl, hm⟩ := row_cases len w
  · rw [decode_of_short hl, encode]
  · rw [decode_of_foreign hl hm, encode, foreignWord_fields]
  · rw [decode_of_frame hl hm, encode, frameWord_fields w hm]

/-- Settles O1: on each class the fields of the word its encoder builds are its operands. -/
theorem decodeOfEncodeIsTheInstruction : Obligations.DecodeOfEncodeIsTheInstruction := by
  unfold Obligations.DecodeOfEncodeIsTheInstruction
  exact fun _ => decode_encode

/-- Settles O2: `encode_decode` gives the class, and `decode_encode` that no other one encodes to the row. -/
theorem everyRowIsOneWellFormedClass : Obligations.EveryRowIsOneWellFormedClass := by
  unfold Obligations.EveryRowIsOneWellFormedClass
  intro len data
  refine ⟨decode_wf len data, encode_decode len data, fun i hwf row => ?_⟩
  calc i = decode (encode i).1 (encode i).2 := (decode_encode hwf).symm
    _ = decode len data := by rw [row]

/-- Settles O3: the decoder's three cases, its fields being FRAME48's slices by definition. -/
theorem opcodeMapSelectsTheClass : Obligations.OpcodeMapSelectsTheClass := by
  unfold Obligations.OpcodeMapSelectsTheClass
  exact fun len data => ⟨decode_of_short, decode_of_foreign, decode_of_frame, frameMask_iff data⟩

/-- Settles O4 by evaluating the decoder on the four rows. -/
theorem writtenOutRowsDecode : Obligations.WrittenOutRowsDecode := by
  unfold Obligations.WrittenOutRowsDecode
  decide

/-! ## Rows longer than 48 bits (R79) -/

/-- Settles O35: the class depends on the length by the bound of 48 alone, and no meaning reads the length it captures. -/
theorem longerRowsDecodeAlike : Obligations.LongerRowsDecodeAlike := by
  unfold Obligations.LongerRowsDecodeAlike
  intro len data s hl
  have h48 : 48 ≤ (48 : Len16).toNat := le_refl 48
  by_cases hm : rowByte data 0 = Config.marker
  · rw [decode_of_frame h48 hm, decode_of_frame hl hm]
    cases hc : crcFails (frameWord (unusedField data) (idField data) (tregField data) (humField data) (crcField data)) with
    | true => exact ⟨_, _, exec_decodeFrame_of_crcFails hc 48 s, exec_decodeFrame_of_crcFails hc len s, rfl⟩
    | false => exact ⟨_, _, exec_decodeFrame_of_not_crcFails hc 48 s, exec_decodeFrame_of_not_crcFails hc len s, rfl⟩
  · rw [decode_of_foreign h48 hm, decode_of_foreign hl hm]
    exact ⟨_, _, exec_decodeForeign 48 _ _ s, exec_decodeForeign len _ _ s, rfl⟩

/-! ## The codes (R75, R76) -/

theorem Reason.ofCode_code (r : Reason) : Reason.ofCode r.code = r := by
  cases r <;> rfl

theorem St3.ofCode_code (t : St3) : St3.ofCode t.code = t := by
  cases t <;> rfl

/-- Settles O7: the codes are the table's, and each code read back is the one it was read from. -/
theorem reasonAndStateCodes : Obligations.ReasonAndStateCodes := by
  unfold Obligations.ReasonAndStateCodes
  exact ⟨⟨rfl, rfl, rfl, rfl⟩, ⟨rfl, rfl, rfl, rfl, rfl, rfl, rfl, rfl⟩, by decide, Reason.ofCode_code, by decide,
    St3.ofCode_code⟩

end Sys2Proof.Machine
end

section
/-!
The temperature register and the temperature code, as numbers (R153, R154, R182): the sign-magnitude register built for an
integer reads back as it, and so does its two's complement code.
-/
namespace Sys2Proof.Machine

/-! ## Reading the register (R153) -/

theorem temp12_bit11 (r : Temp12) : r.getLsbD 11 = decide (2048 ≤ r.toNat) :=
  BitVec.msb_eq_decide r

theorem magnitude_eq_mod (r : Temp12) : magnitude r = r.toNat % 2048 :=
  (BitVec.toNat_and r 0x7FF).trans (Nat.and_two_pow_sub_one_eq_mod r.toNat 11)

/-- A register below 0x800 is its own magnitude. -/
theorem sm12_of_lt {r : Temp12} (h : r.toNat < 2048) : sm12 r = r.toNat := by
  rw [sm12, temp12_bit11, if_neg (by simpa using h), magnitude_eq_mod, Nat.mod_eq_of_lt h]

/-- From 0x800 on the register is a negated magnitude above the sign bit. -/
theorem sm12_of_le {r : Temp12} (h : 2048 ≤ r.toNat) : sm12 r = 2048 - r.toNat := by
  rw [sm12, temp12_bit11, if_pos (by simpa using h), magnitude_eq_mod]
  omega

theorem sm12_bounds (r : Temp12) : -2047 ≤ sm12 r ∧ sm12 r ≤ 2047 := by
  obtain h | h := Nat.lt_or_ge r.toNat 2048
  · rw [sm12_of_lt h]; omega
  · rw [sm12_of_le h]; omega

/-! ## Building the register (R81) -/

theorem tregOfTemp_toNat_of_nonneg {t : Int} (h0 : 0 ≤ t) (h : t ≤ 2047) : (tregOfTemp t).toNat = t.toNat := by
  rw [tregOfTemp, if_pos h0, BitVec.toNat_ofNat]
  exact Nat.mod_eq_of_lt (by omega)

/-- The sign bit stands above the magnitude, so setting it adds 0x800. -/
theorem tregOfTemp_toNat_of_neg {t : Int} (h0 : t < 0) (h : -2047 ≤ t) : (tregOfTemp t).toNat = 2048 + (-t).toNat := by
  have magnitude_lt : (-t).toNat < 2 ^ 11 := by omega
  rw [tregOfTemp, if_neg (Int.not_le.mpr h0), BitVec.toNat_or, BitVec.toNat_ofNat,
    Nat.mod_eq_of_lt (show (-t).toNat < 2 ^ 12 by omega)]
  exact (Nat.two_pow_add_eq_or_of_lt magnitude_lt 1).symm

/-- A built register reads back as the integer it was built from. -/
theorem sm12_tregOfTemp {t : Int} (hlo : -2047 ≤ t) (hhi : t ≤ 2047) : sm12 (tregOfTemp t) = t := by
  obtain h0 | h0 := Int.lt_or_le t 0
  · have built := tregOfTemp_toNat_of_neg h0 hlo
    rw [sm12_of_le (by omega), built]
    omega
  · have built := tregOfTemp_toNat_of_nonneg h0 hhi
    rw [sm12_of_lt (by omega), built]
    omega

/-- The register rebuilt from its integer is itself, unless it is negative zero (D14). -/
theorem tregOfTemp_sm12 {r : Temp12} (h : r ≠ 0x800) : tregOfTemp (sm12 r) = r := by
  obtain ⟨hlo, hhi⟩ := sm12_bounds r
  apply BitVec.eq_of_toNat_eq
  obtain hr | hr := Nat.lt_or_ge r.toNat 2048
  · have read := sm12_of_lt hr
    rw [tregOfTemp_toNat_of_nonneg (by omega) hhi]
    omega
  · have read := sm12_of_le hr
    have not_negativeZero : r.toNat ≠ 2048 := fun e => h (BitVec.eq_of_toNat_eq e)
    rw [tregOfTemp_toNat_of_neg (by omega) hlo]
    omega

/-! ## The code (R154, R182) -/

theorem tempOfCode_eq_toInt (c : Temp12) : tempOfCode c = c.toInt := by
  rw [tempOfCode, BitVec.toInt_eq_msb_cond]
  rfl

theorem tempOfCode_tempCode {t : Int} (hlo : -2047 ≤ t) (hhi : t ≤ 2047) : tempOfCode (tempCode t) = t := by
  rw [tempOfCode_eq_toInt, tempCode]
  exact BitVec.toInt_ofInt_eq_self (by omega) (by omega) (by omega)

end Sys2Proof.Machine
end

section
/-!
The frame builder (R81) and the rows it builds. A built frame is the FRAME48 word of its fields with the checksum byte that
passes the check, and these are the accepted rows, negative zero apart.
-/
namespace Sys2Proof.Machine

/-! ## The fields the extractor reads (R151, R152) -/

theorem idOf_eq_idField (w : Frame48) : idOf w = idField w := by
  refine BitVec.eq_of_getLsbD_eq fun j hj => ?_
  rw [idOf, idField_getLsbD]
  interval_cases j <;> simp [rowByte]

theorem tregOf_eq_tregField (w : Frame48) : tregOf w = tregField w := by
  refine BitVec.eq_of_getLsbD_eq fun j hj => ?_
  rw [tregOf, tregField_getLsbD]
  interval_cases j <;> simp [rowByte]

theorem humOf_eq_humField (w : Frame48) : humOf w = humField w := rfl

/-! ## The checksum byte of a frame -/

/-- The checksum byte that a frame with these fields needs: the CRC of its bytes 1..4, which do not hold the checksum. -/
def frameCrc (u : Nibble) (id : Byte) (treg : Temp12) (hum : Byte) : Byte :=
  crc8 (u ++ id.extractLsb' 4 4) (id.extractLsb' 0 4 ++ treg.extractLsb' 8 4) (treg.extractLsb' 0 8) hum

theorem rowCrc_frameWord (u : Nibble) (id : Byte) (treg : Temp12) (hum crc : Byte) :
    rowCrc (frameWord u id treg hum crc) = frameCrc u id treg hum := by
  rw [rowCrc_eq, rowByte_one, rowByte_two, rowByte_three, rowByte_four]
  simp [frameCrc]

theorem crcFails_frameWord_iff (u : Nibble) (id : Byte) (treg : Temp12) (hum crc : Byte) :
    crcFails (frameWord u id treg hum crc) = true ↔ crc ≠ frameCrc u id treg hum := by
  rw [crcFails, checksumFails_iff, rowCrc_frameWord, rowByte_five, crcField_frameWord, ne_comm]

theorem crcFails_frameWord_frameCrc (u : Nibble) (id : Byte) (treg : Temp12) (hum : Byte) :
    crcFails (frameWord u id treg hum (frameCrc u id treg hum)) = false := by
  rw [← Bool.not_eq_true, crcFails_frameWord_iff, not_not]

/-! ## The builder -/

/-- A word is its six bytes packed (R51). -/
theorem packBytes_rowByte (w : Frame48) :
    packBytes (rowByte w 0) (rowByte w 1) (rowByte w 2) (rowByte w 3) (rowByte w 4) (rowByte w 5) = w := by
  refine BitVec.eq_of_getLsbD_eq fun j hj => ?_
  rw [packBytes_getLsbD]
  simp only [rowByte_getLsbD]
  interval_cases j <;> rfl

/-- The builder's byte 1, a shift and an OR, is the two nibbles side by side. -/
theorem builtByte_one (u : Nibble) (id : Byte) : (u.setWidth 8 <<< 4) ||| (id >>> 4) = u ++ id.extractLsb' 4 4 := by
  refine BitVec.eq_of_getLsbD_eq fun j hj => ?_
  rw [show (u ++ id.extractLsb' 4 4).getLsbD j = _ from BitVec.getLsbD_append]
  interval_cases j <;> simp

/-- The builder's byte 2 likewise. -/
theorem builtByte_two (id : Byte) (n : Nibble) :
    ((id &&& 0x0F) <<< 4) ||| n.setWidth 8 = id.extractLsb' 0 4 ++ n := by
  refine BitVec.eq_of_getLsbD_eq fun j hj => ?_
  rw [show (id.extractLsb' 0 4 ++ n).getLsbD j = _ from BitVec.getLsbD_append]
  interval_cases j <;> simp

/-- R81's builder in the fields of R71. -/
theorem buildFrame_eq_frameWord (id : Byte) (t : Int) (h : Byte) (u : Nibble) :
    buildFrame id t h u = frameWord u id (tregOfTemp t) h (frameCrc u id (tregOfTemp t) h) := by
  rw [← packBytes_rowByte (frameWord ..), rowByte_zero, rowByte_one, rowByte_two, rowByte_three, rowByte_four, rowByte_five]
  simp only [buildFrame, builtByte_one, builtByte_two, frameCrc, markerField_frameWord, unusedField_frameWord,
    idField_frameWord, tregField_frameWord, humField_frameWord, crcField_frameWord]

/-- Settles O32: the built frame passes the checks, and its register reads back as the temperature. -/
theorem builtFrameIsAccepted : Obligations.BuiltFrameIsAccepted := by
  unfold Obligations.BuiltFrameIsAccepted
  intro len id h u temp s hl hlo hhi
  rw [buildFrame_eq_frameWord, decode_frameWord hl,
    exec_decodeFrame_of_not_crcFails (crcFails_frameWord_frameCrc u id (tregOfTemp temp) h), sm12_tregOfTemp hlo hhi]
  exact ⟨_, rfl, rfl, tempOfCode_tempCode hlo hhi⟩

/-! ## The accepted rows -/

/-- What an accepted row is: a frame with its own checksum byte, and the reading is its fields (R101). -/
theorem of_decodeRow_eq_accept {len : Len16} {w : Frame48} {id hum : Byte} {temp : Int}
    (h : decodeRow len w = .accept id temp hum) :
    id = idField w ∧ temp = sm12 (tregField w) ∧ hum = humField w ∧
    w = frameWord (unusedField w) id (tregField w) hum (frameCrc (unusedField w) id (tregField w) hum) := by
  obtain hl | ⟨hl, hm⟩ | ⟨hl, hm⟩ := row_cases len w
  · simp [decodeRow_of_short hl] at h
  · simp [decodeRow_of_marker hl hm] at h
  by_cases hc : crc8 (rowByte w 1) (rowByte w 2) (rowByte w 3) (rowByte w 4) = rowByte w 5
  · rw [decodeRow_of_accept hl hm hc, idOf_eq_idField, tregOf_eq_tregField, humOf_eq_humField, Decoded.accept.injEq] at h
    obtain ⟨rfl, rfl, rfl⟩ := h
    have checksum : crcField w = frameCrc (unusedField w) (idField w) (tregField w) (humField w) := by
      rw [← rowCrc_frameWord _ _ _ _ (crcField w), frameWord_fields w hm, rowCrc_eq, hc, rowByte_five]
    refine ⟨rfl, rfl, rfl, ?_⟩
    rw [← checksum, frameWord_fields w hm]
  · simp [decodeRow_of_crc hl hm hc] at h

/-- Settles O33: an accepted row is the frame of its fields, and only its register can differ from the one rebuilt. -/
theorem acceptedRowIsTheBuiltFrame : Obligations.AcceptedRowIsTheBuiltFrame := by
  unfold Obligations.AcceptedRowIsTheBuiltFrame
  intro len w id h temp accepted
  obtain ⟨-, rfl, -, row⟩ := of_decodeRow_eq_accept accepted
  obtain ⟨hlo, hhi⟩ := sm12_bounds (tregField w)
  refine ⟨hlo, hhi, fun notNegativeZero => ?_, fun negativeZero => ?_⟩
  · rw [buildFrame_eq_frameWord, tregOfTemp_sm12 notNegativeZero]
    exact row.symm
  · rw [buildFrame_eq_frameWord, tregField_frameWord, negativeZero]
    decide

end Sys2Proof.Machine
end

section
/-!
The reading word (R74, R180), and the two results a meaning can answer.
-/
namespace Sys2Proof.Machine

/-! ## The slices of the word -/

theorem readingWord_id (r : ResultPorts) : r.readingWord.extractLsb' 20 8 = r.id :=
  (BitVec.extractLsb'_append_eq_of_le (by decide)).trans BitVec.extractLsb'_append_eq_left

theorem readingWord_temp (r : ResultPorts) : r.readingWord.extractLsb' 8 12 = r.temp :=
  (BitVec.extractLsb'_append_eq_of_le (by decide)).trans BitVec.extractLsb'_append_eq_right

theorem readingWord_hum (r : ResultPorts) : r.readingWord.extractLsb' 0 8 = r.hum :=
  BitVec.extractLsb'_append_eq_right

/-! ## The results -/

/-- What a meaning can answer, on every term: a rejection, or the reading of the fields of its row. -/
theorem exec_cases (i : Instr) (s : State) :
    (∃ (s' : State) (c : Cause), exec i s = .next (s'.reject c)) ∨
    (∃ s' : State, exec i s =
      .next (s'.accept (idField (encode i).2) (sm12 (tregField (encode i).2)) (humField (encode i).2))) := by
  cases i with
  | decodeShort len data => exact .inl ⟨_, _, exec_decodeShort len data s⟩
  | decodeForeign len m rest => exact .inl ⟨_, _, exec_decodeForeign len m rest s⟩
  | decodeFrame len u id treg hum crc =>
    cases hc : crcFails (frameWord u id treg hum crc) with
    | true => exact .inl ⟨_, _, exec_decodeFrame_of_crcFails hc len s⟩
    | false =>
      simp only [encode, idField_frameWord, tregField_frameWord, humField_frameWord]
      exact .inr ⟨_, exec_decodeFrame_of_not_crcFails hc len s⟩

/-- Every cause has a reason code of its own (R75). -/
theorem Cause.reason_ne_none (c : Cause) : c.reason ≠ .none := by
  cases c <;> decide

/-- A rejection packs zeros (R106, D13). -/
theorem readingWord_reject (s : State) (c : Cause) : (s.reject c).resultPorts.readingWord = 0 :=
  show (0 : Byte) ++ (0 : Temp12) ++ (0 : Byte) = (0 : Reading28) by decide

/-- Settles O49: a rejection zeroes the registers the word is packed from, an acceptance writes the row's fields to them, and
the invariant excludes the code 0x800. -/
theorem readingWordPacksTheResult : Obligations.ReadingWordPacksTheResult := by
  unfold Obligations.ReadingWordPacksTheResult
  refine ⟨fun r => ⟨readingWord_id r, readingWord_temp r, readingWord_hum r⟩, fun i s => ?_, fun s hs => ?_⟩
  · obtain ⟨s', c, rejected⟩ | ⟨s', accepted⟩ := exec_cases i s
    · exact ⟨_, rejected, fun _ => ⟨c.reason_ne_none, readingWord_reject s' c, rfl⟩,
        fun h => absurd h Bool.false_ne_true⟩
    · exact ⟨_, accepted, fun h => absurd h.symm Bool.false_ne_true, fun _ => ⟨rfl, rfl⟩⟩
  · rw [readingWord_temp]
    exact hs.tempCode

end Sys2Proof.Machine
end

/-! # Frame validation: the arms, the decode classes, the whole decode, and the invariant (40_frame_validation.md) -/

section
/-!
The arms of the state machine, edge by edge (R111-R118).
-/
namespace Sys2Proof.Machine

/-! ## What an arm can write -/

/-- The register writes that an arm can make. Only CRC_RUN and the set-up for it write CRC_R and CNT, and CNT has come back to
0 where they do not go on to CRC_RUN (R113, R114). No write enters the unused code (R118). -/
inductive ArmWrite (s : State) : State → Prop
  | goto (t : St3) (outside : s.state ≠ .crcRun) (used : t ≠ .unused) : ArmWrite s (s.goto t)
  | capture (len : Len16) (data : Frame48) (outside : s.state ≠ .crcRun) : ArmWrite s (s.capture len data)
  | reject (c : Cause) (outside : s.state ≠ .crcRun) : ArmWrite s (s.reject c)
  | accept (id : Byte) (temp : Int) (hum : Byte) (outside : s.state ≠ .crcRun) : ArmWrite s (s.accept id temp hum)
  | crc (c : Byte) (n : Count5) (t : St3) (next : t = .crcRun ∨ t = .chkCrc ∧ n = 0) :
      ArmWrite s ((s.setCrc c n).goto t)

theorem ArmWrite.ite {s t e : State} {c : Prop} [Decidable c] (ht : ArmWrite s t) (he : ArmWrite s e) :
    ArmWrite s (if c then t else e) :=
  iteInduction (fun _ => ht) (fun _ => he)

theorem arm_write (p : Pins) (s : State) : ArmWrite s (arm p s) := by
  by_cases run : s.state = .crcRun
  · simp only [arm, run, armCrcRun]
    refine .crc _ _ _ ?_
    split
    case isTrue last => exact .inr ⟨rfl, by rw [last]; rfl⟩
    case isFalse => exact .inl rfl
  · unfold arm
    cases hs : s.state <;> dsimp only
    case idle => exact .ite (.capture _ _ run) (.goto _ run nofun)
    case chkLen => exact .ite (.reject _ run) (.goto _ run nofun)
    case chkMark => exact .ite (.reject _ run) (.crc _ _ _ (.inl rfl))
    case crcRun => exact absurd hs run
    case chkCrc => exact .ite (.reject _ run) (.goto _ run nofun)
    case extract => exact .accept _ _ _ run
    case result => exact .ite (.goto _ run nofun) (.goto _ run nofun)
    case unused => exact .goto _ run nofun

theorem ArmWrite.state_ne_unused {s t : State} (h : ArmWrite s t) : t.state ≠ .unused := by
  cases h with
  | goto t _ used => exact used
  | capture => exact nofun
  | reject => exact nofun
  | accept => exact nofun
  | crc c n t next => obtain rfl | ⟨rfl, -⟩ := next <;> exact nofun

/-- Outside IDLE an arm reads no level but the consumer's (R111, R117). -/
theorem arm_eq_of_outReady {s : State} {p q : Pins} (hs : s.state ≠ .idle) (h : p.outReady = q.outReady) :
    arm p s = arm q s := by
  unfold arm
  cases hst : s.state
  case idle => exact absurd hst hs
  case result => simp only [armResult, h]
  all_goals rfl

theorem edge_cons (s : State) (p : Pins) (ps : List Pins) :
    edge { s with pins := p :: ps } =
      if p.rst then State.toReset { s with pins := ps } else arm p { s with pins := ps } := rfl

/-- Outside IDLE an edge reads no level but the reset and the consumer's (R111, R117, R230). -/
theorem edge_cons_eq {s : State} (hs : s.state ≠ .idle) (p q : Pins) (hr : p.rst = q.rst) (ho : p.outReady = q.outReady)
    (ps : List Pins) : edge { s with pins := p :: ps } = edge { s with pins := q :: ps } := by
  have sameArm : arm p { s with pins := ps } = arm q { s with pins := ps } := arm_eq_of_outReady hs ho
  rw [edge_cons, edge_cons, hr, sameArm]

/-! ## The edges, state by state -/

section edge

variable {s : State} (hr : s.nextPins.rst = false)
include hr

theorem edge_chkLen_of_long (hs : s.state = .chkLen) (hl : 48 ≤ s.lenR.toNat) : edge s = (s.elapse 1).goto .chkMark := by
  have passes : ¬ lenFails (s.elapse 1).lenR = true := mt (lenFails_iff s.lenR).mp (Nat.not_lt.mpr hl)
  simp only [edge_of_noReset s hr, arm, State.elapse_state, hs, armChkLen, if_neg passes]

theorem edge_chkMark_of_foreign (hs : s.state = .chkMark) (hm : rowByte s.frameR 0 ≠ Config.marker) :
    edge s = (s.elapse 1).reject .marker := by
  have fails : markerFails (s.elapse 1).frameR = true := (markerFails_iff s.frameR).mpr hm
  simp only [edge_of_noReset s hr, arm, State.elapse_state, hs, armChkMark, if_pos fails]

theorem edge_chkMark_of_marker (hs : s.state = .chkMark) (hm : rowByte s.frameR 0 = Config.marker) :
    edge s = ((s.elapse 1).setCrc Config.crcInit 0).goto .crcRun := by
  have passes : ¬ markerFails (s.elapse 1).frameR = true := fun h => (markerFails_iff s.frameR).mp h hm
  simp only [edge_of_noReset s hr, arm, State.elapse_state, hs, armChkMark, if_neg passes]

theorem edge_crcRun (hs : s.state = .crcRun) : edge s = armCrcRun (s.elapse 1) := by
  simp only [edge_of_noReset s hr, arm, State.elapse_state, hs]

theorem edge_chkCrc_of_mismatch (hs : s.state = .chkCrc) (hc : s.crcR ≠ rowByte s.frameR 5) :
    edge s = (s.elapse 1).reject .crc := by
  have fails : checksumFails (s.elapse 1).crcR (s.elapse 1).frameR = true := (checksumFails_iff s.crcR s.frameR).mpr hc
  simp only [edge_of_noReset s hr, arm, State.elapse_state, hs, armChkCrc, if_pos fails]

theorem edge_chkCrc_of_match (hs : s.state = .chkCrc) (hc : s.crcR = rowByte s.frameR 5) :
    edge s = (s.elapse 1).goto .extract := by
  have passes : ¬ checksumFails (s.elapse 1).crcR (s.elapse 1).frameR = true :=
    fun h => (checksumFails_iff s.crcR s.frameR).mp h hc
  simp only [edge_of_noReset s hr, arm, State.elapse_state, hs, armChkCrc, if_neg passes]

/-- EXTRACT writes the fields as R71 slices them: the source's byte formulas are the slices (R151, R152, R156). -/
theorem edge_extract (hs : s.state = .extract) :
    edge s = (s.elapse 1).accept (idField s.frameR) (sm12 (tregField s.frameR)) (humField s.frameR) := by
  simp only [edge_of_noReset s hr, arm, State.elapse_state, hs, armExtract, idOf_eq_idField, tregOf_eq_tregField,
    humOf_eq_humField, State.elapse_frameR]

theorem edge_unused (hs : s.state = .unused) : edge s = (s.elapse 1).goto .idle := by
  simp only [edge_of_noReset s hr, arm, State.elapse_state, hs, armUnused]

end edge

/-! ## The statements of the arms -/

/-- Settles O17: the capture and the wait of IDLE; in any other state an edge reads only the reset and the
consumer's level. -/
theorem idleCaptures : Obligations.IdleCaptures := by
  unfold Obligations.IdleCaptures
  refine ⟨fun s hs hr => ⟨fun hv => edge_of_takes ⟨hs, hr, hv, rfl, rfl⟩, fun hv => ?_⟩,
    fun s p ps v len data hs => edge_cons_eq hs p { p with inValid := v, inLen := len, inData := data } rfl rfl ps⟩
  rw [edge_idle_wait hs hr hv, ← hs]
  rfl

/-- Settles O18. -/
theorem lengthCheckEdge : Obligations.LengthCheckEdge := by
  unfold Obligations.LengthCheckEdge
  exact fun s hs hr => ⟨fun hl => edge_chkLen_of_short hs hl hr, edge_chkLen_of_long hr hs⟩

/-- Settles O19: byte 0 is the slice of bits 47:40. -/
theorem markerCheckEdge : Obligations.MarkerCheckEdge := by
  unfold Obligations.MarkerCheckEdge
  exact fun s hs hr => ⟨edge_chkMark_of_foreign hr hs, edge_chkMark_of_marker hr hs⟩

/-- Settles O21: byte 5 is the slice of bits 7:0. -/
theorem checksumCheckEdge : Obligations.ChecksumCheckEdge := by
  unfold Obligations.ChecksumCheckEdge
  exact fun s hs hr => ⟨edge_chkCrc_of_mismatch hr hs, edge_chkCrc_of_match hr hs⟩

/-- Settles O22: the fields of the row are its slices. -/
theorem extractEdge : Obligations.ExtractEdge := by
  unfold Obligations.ExtractEdge
  exact fun s hs hr => edge_extract hr hs

/-- Settles O23: RESULT is not IDLE, and it goes there or waits. -/
theorem resultEdge : Obligations.ResultEdge := by
  unfold Obligations.ResultEdge
  exact fun s hs hr => ⟨by simp [State.outputs, hs], edge_result_given hs hr, edge_result_wait hs hr⟩

/-- Settles O24: a reset enters IDLE, and no arm's write enters the unused code. -/
theorem unusedCodeRecovers : Obligations.UnusedCodeRecovers := by
  unfold Obligations.UnusedCodeRecovers
  refine fun s => ⟨fun hs hr => edge_unused hr hs, ?_⟩
  cases hr : s.nextPins.rst with
  | true => rw [edge_of_reset s hr]; exact nofun
  | false => rw [edge_of_noReset s hr]; exact (arm_write _ _).state_ne_unused

end Sys2Proof.Machine
end

section
/-!
The decode classes from any state (R101-R105).
-/
namespace Sys2Proof.Machine

/-! ## Their whole next states -/

/-- Settles O25. -/
theorem shortRowIsRejected : Obligations.ShortRowIsRejected := by
  unfold Obligations.ShortRowIsRejected
  exact fun len data s _ => exec_decodeShort len data s

/-- Settles O26. -/
theorem foreignRowIsRejected : Obligations.ForeignRowIsRejected := by
  unfold Obligations.ForeignRowIsRejected
  exact fun len m rest s _ _ => exec_decodeForeign len m rest s

/-- Settles O27: a frame with its own checksum byte passes the check, and that byte is what the CRC leaves. -/
theorem frameIsAccepted : Obligations.FrameIsAccepted := by
  unfold Obligations.FrameIsAccepted
  rintro len u id treg hum crc s - rfl
  have answer := exec_decodeFrame_of_not_crcFails (crcFails_frameWord_frameCrc u id treg hum) len s
  rw [rowCrc_frameWord] at answer
  exact answer

/-- Settles O28: any other checksum byte fails the check. -/
theorem frameIsRejectedOnChecksum : Obligations.FrameIsRejectedOnChecksum := by
  unfold Obligations.FrameIsRejectedOnChecksum
  intro len u id treg hum crc s _ hc
  have answer := exec_decodeFrame_of_crcFails ((crcFails_frameWord_iff u id treg hum crc).mpr hc.symm) len s
  rw [rowCrc_frameWord] at answer
  exact answer

/-! ## Their port values -/

section frameWord

variable {len : Len16} {u : Nibble} {id : Byte} {treg : Temp12} {hum crc : Byte}

theorem decodeRow_frameWord_of_crcFails (hl : 48 ≤ len.toNat) (hc : crcFails (frameWord u id treg hum crc) = true) :
    decodeRow len (frameWord u id treg hum crc) = .reject .crc :=
  decodeRow_of_crc hl (markerField_frameWord ..) ((crcFails_iff _).mp hc)

theorem decodeRow_frameWord_of_not_crcFails (hl : 48 ≤ len.toNat) (hc : crcFails (frameWord u id treg hum crc) = false) :
    decodeRow len (frameWord u id treg hum crc) = .accept id (sm12 treg) hum := by
  rw [← Bool.not_eq_true, crcFails_iff, not_not] at hc
  rw [decodeRow_of_accept hl (markerField_frameWord ..) hc, idOf_eq_idField, tregOf_eq_tregField, humOf_eq_humField,
    idField_frameWord, tregField_frameWord, humField_frameWord]

end frameWord

/-- R101 at the meanings: a well-formed class answers RESULT with its row and the decode function's ports. -/
theorem exec_ports {i : Instr} (h : i.wf = true) (s : State) : ∃ t, exec i s = .next t ∧ t.state = .result ∧
    t.lenR = (encode i).1 ∧ t.frameR = (encode i).2 ∧ t.resultPorts = (decodeRow (encode i).1 (encode i).2).ports := by
  cases i with
  | decodeShort len data =>
    have hl := (wf_decodeShort_iff len data).mp h
    refine ⟨_, exec_decodeShort len data s, rfl, rfl, rfl, ?_⟩
    rw [encode, decodeRow_of_short hl]
    rfl
  | decodeForeign len m rest =>
    obtain ⟨hl, hm⟩ := (wf_decodeForeign_iff len m rest).mp h
    refine ⟨_, exec_decodeForeign len m rest s, rfl, rfl, rfl, ?_⟩
    rw [encode, decodeRow_of_marker hl (by rwa [rowByte_zero, markerField_foreignWord])]
    rfl
  | decodeFrame len u id treg hum crc =>
    have hl := (wf_decodeFrame_iff len u id treg hum crc).mp h
    cases hc : crcFails (frameWord u id treg hum crc) with
    | true =>
      refine ⟨_, exec_decodeFrame_of_crcFails hc len s, rfl, rfl, rfl, ?_⟩
      rw [encode, decodeRow_frameWord_of_crcFails hl hc]
      rfl
    | false =>
      refine ⟨_, exec_decodeFrame_of_not_crcFails hc len s, rfl, rfl, rfl, ?_⟩
      rw [encode, decodeRow_frameWord_of_not_crcFails hl hc]
      rfl

/-- Settles O30. -/
theorem everyClassAnswersTheDecodeFunction : Obligations.EveryClassAnswersTheDecodeFunction := by
  unfold Obligations.EveryClassAnswersTheDecodeFunction
  exact fun _ s h => exec_ports h s

/-- The reason is that of the first check that fails (R102). -/
theorem decodeRow_ports_reason (len : Len16) (w : Frame48) : (decodeRow len w).ports.reason =
    if len.toNat < 48 then .short
    else if rowByte w 0 ≠ Config.marker then .marker
    else if crc8 (rowByte w 1) (rowByte w 2) (rowByte w 3) (rowByte w 4) ≠ rowByte w 5 then .crc
    else .none := by
  unfold decodeRow
  rw [show Config.minLenBits = 48 from rfl]
  split_ifs <;> rfl

/-- The accept flag and the reading go with the reason NONE (R75, R106). -/
theorem Decoded.accept_iff_reason (d : Decoded) : d.ports.accept = true ↔ d.ports.reason = .none := by
  cases d with
  | reject c => exact iff_of_false Bool.false_ne_true c.reason_ne_none
  | accept => exact iff_of_true rfl rfl

theorem Decoded.noReading_of_accept_eq_false {d : Decoded} (h : d.ports.accept = false) :
    d.ports.id = 0 ∧ d.ports.temp = 0 ∧ d.ports.hum = 0 := by
  cases d with
  | reject => exact ⟨rfl, rfl, rfl⟩
  | accept => exact absurd h.symm Bool.false_ne_true

/-- Settles O29: the class of the row answers the decode function's ports, whose reason is the first failed check's. -/
theorem firstFailedCheckDecides : Obligations.FirstFailedCheckDecides := by
  unfold Obligations.FirstFailedCheckDecides
  intro len data s
  obtain ⟨t, answer, -, -, -, ports⟩ := exec_ports (decode_wf len data) s
  rw [encode_decode] at ports
  have acc : t.outAcc = (decodeRow len data).ports.accept := congrArg ResultPorts.accept ports
  have rsn : t.outRsn = (decodeRow len data).ports.reason := congrArg ResultPorts.reason ports
  refine ⟨t, answer, rsn.trans (decodeRow_ports_reason len data), ?_, fun rejected => ?_⟩
  · rw [acc, rsn, Decoded.accept_iff_reason]
  · rw [rsn, ne_eq, ← Decoded.accept_iff_reason, Bool.not_eq_true] at rejected
    obtain ⟨id, temp, hum⟩ := Decoded.noReading_of_accept_eq_false rejected
    exact ⟨(congrArg ResultPorts.id ports).trans id, (congrArg ResultPorts.temp ports).trans temp,
      (congrArg ResultPorts.hum ports).trans hum⟩

end Sys2Proof.Machine
end

section
/-!
The whole decode (R119): the edges from an input handshake, one check after another, and the steps made of them.
-/
namespace Sys2Proof.Machine

/-! ## No reset ahead -/

theorem State.noResetFor.mono {s : State} {m n : Nat} (h : s.noResetFor n) (hmn : m ≤ n) : s.noResetFor m :=
  fun p hp => h p (List.take_subset_take_left _ hmn hp)

theorem noResetFor_edges {s : State} {m n : Nat} (h : s.noResetFor (m + n)) : (edges m s).noResetFor n := by
  induction m generalizing s with
  | zero => rwa [Nat.zero_add] at h
  | succ m ih =>
    rw [Nat.add_right_comm] at h
    exact ih ((State.noResetFor_succ s (edge s) _ (edge_pins s)).mp h).2

/-- Every edge inside the window is one without reset. -/
theorem State.noResetFor.nextPins_edges {s : State} {n : Nat} (h : s.noResetFor n) {m : Nat} (hm : m < n) :
    (edges m s).nextPins.rst = false :=
  ((State.noResetFor_succ (edges m s) (edge (edges m s)) 0 (edge_pins _)).mp (noResetFor_edges (h.mono hm))).1

/-! ## Input levels used up -/

theorem elapse_elapse (s : State) (m n : Nat) : (s.elapse m).elapse n = s.elapse (m + n) := by
  simp [State.elapse, List.drop_drop]

theorem elapse_takeRow (s : State) (m n : Nat) (len : Len16) (data : Frame48) :
    (s.takeRow m len data).elapse n = s.takeRow (m + n) len data := by
  change ((s.elapse (1 + m)).elapse n).capture len data = _
  rw [elapse_elapse, Nat.add_assoc, State.takeRow]

/-! ## CRC_RUN (R114, R134) -/

/-- `n` row bits taken: the CRC so far, and the counter, which comes back to 0 at the 32nd. -/
def State.crcBits (s : State) (n : Nat) : State :=
  s.setCrc (crcFold Config.crcInit (rowBits s.frameR 8 n)) (BitVec.ofNat 5 n)

theorem crcBits_32 (s : State) : s.crcBits 32 = s.setCrc (rowCrc s.frameR) 0 := by
  rw [State.crcBits, crcFold_coveredBits, ← rowCrc_eq]
  rfl

/-- The CRC_RUN edge takes the next row bit, and the 32nd is the last. -/
theorem armCrcRun_crcBits (s : State) {k : Nat} (hk : k < 32) :
    armCrcRun (s.crcBits k) = (s.crcBits (k + 1)).goto (if k + 1 < 32 then .crcRun else .chkCrc) := by
  have count : (BitVec.ofNat 5 k).toNat = k := by simp; omega
  have bit := crcFold_nextBit s.frameR (BitVec.ofNat 5 k)
  have last : BitVec.ofNat 5 k = 31 ↔ ¬ k + 1 < 32 := by bv_omega
  rw [count] at bit
  simp only [armCrcRun, State.crcBits, State.setCrc_crcR, State.setCrc_frameR, State.setCrc_cnt, bit, last, ite_not]
  rw [BitVec.ofNat_add]
  rfl

/-- R134: CHK_MARK of a good marker sets the CRC up, and each edge after it takes one row bit, up to the 32nd. -/
theorem edges_of_chkMark {s : State} (hs : s.state = .chkMark) (hm : rowByte s.frameR 0 = Config.marker) {n : Nat}
    (hn : n ≤ 32) (hr : s.noResetFor (1 + n)) :
    edges (1 + n) s = ((s.elapse (1 + n)).crcBits n).goto (if n < 32 then .crcRun else .chkCrc) := by
  induction n with
  | zero => exact edge_chkMark_of_marker (hr.nextPins_edges (m := 0) (by omega)) hs hm
  | succ n ih =>
    have before := ih (by omega) (hr.mono (by omega))
    rw [if_pos (show n < 32 by omega)] at before
    have noReset : (edges (1 + n) s).nextPins.rst = false := hr.nextPins_edges (by omega)
    calc edges (1 + n + 1) s = edge (edges (1 + n) s) := edges_succ' _ _
      _ = armCrcRun ((edges (1 + n) s).elapse 1) := edge_crcRun noReset (by rw [before]; rfl)
      _ = armCrcRun ((s.elapse (1 + n + 1)).crcBits n) := by rw [before, ← elapse_elapse s (1 + n) 1]; rfl
      _ = _ := armCrcRun_crcBits _ (by omega)

/-! ## The edges from an input handshake -/

section takes

variable {s : State} {len : Len16} {w : Frame48} (ht : s.takes len w)
include ht

theorem edges_of_takes_short (hl : len.toNat < 48) (hr : s.noResetFor 2) :
    edges 2 s = (s.takeRow 1 len w).reject .short := by
  have captured : edges 1 s = s.takeRow 0 len w := edge_of_takes ht
  calc edges 2 s = edge (edges 1 s) := edges_succ' 1 s
    _ = ((edges 1 s).elapse 1).reject .short :=
      edge_chkLen_of_short (congrArg State.state captured) (by rwa [captured]) (hr.nextPins_edges (by decide))
    _ = _ := by rw [captured, elapse_takeRow]

theorem edges_of_takes_long (hl : 48 ≤ len.toNat) (hr : s.noResetFor 2) :
    edges 2 s = (s.takeRow 1 len w).goto .chkMark := by
  have captured : edges 1 s = s.takeRow 0 len w := edge_of_takes ht
  calc edges 2 s = edge (edges 1 s) := edges_succ' 1 s
    _ = ((edges 1 s).elapse 1).goto .chkMark :=
      edge_chkLen_of_long (hr.nextPins_edges (by decide)) (congrArg State.state captured) (by rwa [captured])
    _ = _ := by rw [captured, elapse_takeRow]

theorem edges_of_takes_foreign (hl : 48 ≤ len.toNat) (hm : rowByte w 0 ≠ Config.marker) (hr : s.noResetFor 3) :
    edges 3 s = (s.takeRow 2 len w).reject .marker := by
  have long := edges_of_takes_long ht hl (hr.mono (by decide))
  calc edges 3 s = edge (edges 2 s) := edges_succ' 2 s
    _ = ((edges 2 s).elapse 1).reject .marker :=
      edge_chkMark_of_foreign (hr.nextPins_edges (by decide)) (congrArg State.state long) (by rwa [long])
    _ = _ := by rw [long, ← elapse_takeRow s 1 1]; rfl

/-- A row with the marker comes to CHK_CRC with its CRC in CRC_R and CNT back at 0. -/
theorem edges_of_takes_marker (hl : 48 ≤ len.toNat) (hm : rowByte w 0 = Config.marker) (hr : s.noResetFor 35) :
    edges 35 s = ((s.takeRow 34 len w).setCrc (rowCrc w) 0).goto .chkCrc := by
  have long := edges_of_takes_long ht hl (hr.mono (by decide))
  have marker : rowByte (edges 2 s).frameR 0 = Config.marker := by rwa [long]
  calc edges 35 s = edges (1 + 32) (edges 2 s) := edges_add 2 33 s
    _ = (((edges 2 s).elapse 33).crcBits 32).goto .chkCrc :=
      edges_of_chkMark (congrArg State.state long) marker (le_refl 32) (noResetFor_edges hr)
    _ = _ := by rw [crcBits_32, long, ← elapse_takeRow s 1 33]; rfl

theorem edges_of_takes_mismatch (hl : 48 ≤ len.toNat) (hm : rowByte w 0 = Config.marker) (hc : rowCrc w ≠ rowByte w 5)
    (hr : s.noResetFor 36) : edges 36 s = ((s.takeRow 35 len w).setCrc (rowCrc w) 0).reject .crc := by
  have run := edges_of_takes_marker ht hl hm (hr.mono (by decide))
  calc edges 36 s = edge (edges 35 s) := edges_succ' 35 s
    _ = ((edges 35 s).elapse 1).reject .crc :=
      edge_chkCrc_of_mismatch (hr.nextPins_edges (by decide)) (congrArg State.state run) (by rwa [run])
    _ = _ := by rw [run, ← elapse_takeRow s 34 1]; rfl

theorem edges_of_takes_match (hl : 48 ≤ len.toNat) (hm : rowByte w 0 = Config.marker) (hc : rowCrc w = rowByte w 5)
    (hr : s.noResetFor 37) : edges 37 s =
      ((s.takeRow 36 len w).setCrc (rowCrc w) 0).accept (idField w) (sm12 (tregField w)) (humField w) := by
  have run := edges_of_takes_marker ht hl hm (hr.mono (by decide))
  have passed : edges 36 s = ((s.takeRow 35 len w).setCrc (rowCrc w) 0).goto .extract :=
    calc edges 36 s = edge (edges 35 s) := edges_succ' 35 s
      _ = ((edges 35 s).elapse 1).goto .extract :=
        edge_chkCrc_of_match (hr.nextPins_edges (by decide)) (congrArg State.state run) (by simpa [run] using hc)
      _ = _ := by rw [run, ← elapse_takeRow s 34 1]; rfl
  calc edges 37 s = edge (edges 36 s) := edges_succ' 36 s
    _ = _ := edge_extract (hr.nextPins_edges (by decide)) (congrArg State.state passed)
    _ = _ := by rw [passed, ← elapse_takeRow s 35 1]; rfl

/-- R119: the meaning of the row's class is the edges from its handshake to its result. -/
theorem exec_eq_edges (hr : s.noResetFor (1 + latency (decode len w))) :
    exec (decode len w) s = .next (edges (1 + latency (decode len w)) s) := by
  obtain hl | ⟨hl, hm⟩ | ⟨hl, hm⟩ := row_cases len w
  · rw [decode_of_short hl] at hr ⊢
    exact congrArg Host.Outcome.next (edges_of_takes_short ht hl hr).symm
  · rw [decode_of_foreign hl hm] at hr ⊢
    rw [exec_decodeForeign, foreignWord_fields]
    exact congrArg Host.Outcome.next (edges_of_takes_foreign ht hl hm hr).symm
  · have fields := frameWord_fields w hm
    have fails_iff : crcFails w = true ↔ rowCrc w ≠ rowByte w 5 := checksumFails_iff (rowCrc w) w
    rw [decode_of_frame hl hm, latency, fields] at hr ⊢
    by_cases hc : crcFails w = true
    · rw [if_pos hc] at hr ⊢
      rw [exec_decodeFrame_of_crcFails (by rwa [fields]), fields]
      exact congrArg Host.Outcome.next (edges_of_takes_mismatch ht hl hm (fails_iff.mp hc) hr).symm
    · rw [if_neg hc] at hr ⊢
      rw [exec_decodeFrame_of_not_crcFails (by rwa [fields, ← Bool.not_eq_true]), fields]
      exact congrArg Host.Outcome.next (edges_of_takes_match ht hl hm (not_not.mp (mt fails_iff.mpr hc)) hr).symm

/-- Between the handshake and the result the block waits for nothing (R110). -/
theorem edges_of_takes_busy {m : Nat} (h0 : 0 < m) (hm : m ≤ latency (decode len w)) (hr : s.noResetFor m) :
    (edges m s).state ≠ .idle ∧ (edges m s).state ≠ .result := by
  obtain ⟨k, rfl⟩ := Nat.exists_eq_add_of_le h0
  rw [latency_decode] at hm
  have inFlight := decodingAt_of_takes ht k (by omega) hr
  exact ⟨inFlight.busy, mt inFlight.state_eq_result_iff.mp (by omega)⟩

end takes

theorem latency_le (i : Instr) : latency i ≤ 36 := by
  cases i with
  | decodeShort len data => exact (Laws.LatencyBound.decodeShort len data).2
  | decodeForeign len m rest => exact (Laws.LatencyBound.decodeForeign len m rest).2
  | decodeFrame len u id treg hum crc => exact (Laws.LatencyBound.decodeFrame len u id treg hum crc).2

/-- Settles O11. -/
theorem stateMachineComputesDecode : Obligations.StateMachineComputesDecode := by
  unfold Obligations.StateMachineComputesDecode
  exact fun s len data ht hr => ⟨exec_eq_edges ht hr, latency_le _, edges_of_takes ht hr⟩

/-! ## The steps -/

/-- A reset edge leaves nothing of the edges before it but the levels they used up (R230, R232). -/
theorem edges_abandon {s : State} {k : Nat} (hr : (edges (k + 1) s).nextPins.rst = true) : edges (k + 2) s = s.abandon k := by
  rw [edges_succ', edge_of_reset _ hr, State.abandon]
  simp only [State.toReset, State.elapse_pins, edges_pins, List.drop_drop]

/-- No reset at the next edge and none at the `n` after it. -/
theorem noResetFor_of_drop {s : State} (hr : s.nextPins.rst = false) {n : Nat}
    (h : ∀ p ∈ (s.pins.drop 1).take n, p.rst = false) : s.noResetFor (n + 1) :=
  (State.noResetFor_succ s (s.elapse 1) n rfl).mpr ⟨hr, h⟩

/-- What `abandonedAt` finds: a reset edge within the decode, and none before it (R232). -/
theorem abandonedAt_some {s : State} {i : Instr} {k : Nat} (hr : s.nextPins.rst = false) (h : s.abandonedAt i = some k) :
    k < latency i ∧ (edges (k + 1) s).nextPins.rst = true ∧ s.noResetFor (k + 1) := by
  obtain ⟨within, reset, before⟩ := firstReset_some _ _ _ h
  refine ⟨within, ?_, noResetFor_of_drop hr before⟩
  rwa [State.nextPins, edges_pins, Nat.add_comm, ← List.drop_drop]

/-- Settles O10: one edge, or the edges up to the reset that abandons the decode, or the whole decode. -/
theorem everyStepIsWholeEdges : Obligations.EveryStepIsWholeEdges := by
  unfold Obligations.EveryStepIsWholeEdges
  intro s
  have bound := latency_le (decode s.nextPins.inLen s.nextPins.inData)
  obtain ⟨-, stepped⟩ | ⟨i, k, offered, abandoned, stepped⟩ | ⟨i, offered, whole, stepped⟩ := step_cases s
  · exact ⟨1, le_refl 1, by decide, stepped, fun m h0 h1 => by omega⟩
  · obtain ⟨ht, rfl⟩ := (offered_some_iff s i).mp offered
    have ⟨_, hr, _⟩ := ht
    obtain ⟨within, reset, before⟩ := abandonedAt_some hr abandoned
    exact ⟨k + 2, by omega, by omega, by rw [stepped, edges_abandon reset], fun m h0 hm =>
      edges_of_takes_busy ht h0 (by omega) (before.mono (by omega))⟩
  · obtain ⟨ht, rfl⟩ := (offered_some_iff s i).mp offered
    have ⟨_, hr, _⟩ := ht
    have noReset := noResetFor_of_drop hr ((firstReset_none_iff _ _).mp whole)
    rw [Nat.add_comm] at noReset
    exact ⟨_, by omega, by omega, stepped.trans (exec_eq_edges ht noReset), fun m h0 hm =>
      edges_of_takes_busy ht h0 (by omega) (noReset.mono (by omega))⟩

/-! ## A placed word -/

theorem noResetFor_offer (s : State) {p : Pins} (hp : p.rst = false) (n : Nat) : (s.offer p).noResetFor n := by
  intro q hq
  obtain rfl | ⟨r, -, rfl⟩ := by simpa using List.mem_of_mem_take hq
  · exact hp
  · rfl

/-- Settles O9: the placed row is taken, and its offer clears every later reset. -/
theorem placedWordIsRun : Obligations.PlacedWordIsRun := by
  unfold Obligations.PlacedWordIsRun
  intro s nbits w i decoded
  obtain ⟨-, row⟩ := Option.ite_none_right_eq_some.mp decoded
  obtain rfl := Option.some.inj row
  exact stepRunsTheRowTaken _ _ _ ⟨rfl, rfl, rfl, rfl, rfl⟩ (noResetFor_offer s rfl _)

end Sys2Proof.Machine
end

section
/-!
The invariant (R110-R118, R134). What a state knows of its row is kept by `edgePairs`; the other parts are kept because an arm
writes the result registers only as it enters RESULT, and there they are a result of the decode function.
-/
namespace Sys2Proof.Machine

/-! ## The result registers -/

/-- What the invariant asks of the result registers alone. -/
structure ResultPorts.Sound (r : ResultPorts) : Prop where
  acceptReason : r.accept = true → r.reason = .none
  noReading : r.accept = false → r.id = 0 ∧ r.temp = 0 ∧ r.hum = 0
  tempCode : r.temp ≠ 0x800

theorem inv_iff (s : State) :
    Inv s ↔ s.phaseInv ∧ (s.state ≠ .crcRun → s.cnt = 0) ∧ s.resultPorts.Sound :=
  ⟨fun ⟨phase, counter, acceptReason, noReading, tempCode⟩ => ⟨phase, counter, acceptReason, noReading, tempCode⟩,
    fun ⟨phase, counter, acceptReason, noReading, tempCode⟩ => ⟨phase, counter, acceptReason, noReading, tempCode⟩⟩

/-- No sign-magnitude register has the code 0x800, which stands for -2048 (R154). -/
theorem tempCode_sm12_ne (r : Temp12) : tempCode (sm12 r) ≠ 0x800 := by
  obtain ⟨hlo, hhi⟩ := sm12_bounds r
  intro code
  have read := tempOfCode_tempCode hlo hhi
  rw [code, show tempOfCode 0x800 = -2048 by decide] at read
  omega

/-- Every answer of the decode function is sound (R106, R154). -/
theorem sound_decodeRow (len : Len16) (w : Frame48) : (decodeRow len w).ports.Sound where
  acceptReason := (Decoded.accept_iff_reason _).mp
  noReading := Decoded.noReading_of_accept_eq_false
  tempCode := by
    unfold decodeRow
    split_ifs
    · decide
    · decide
    · decide
    · exact tempCode_sm12_ne _

theorem sound_toReset (s : State) : s.toReset.resultPorts.Sound :=
  ⟨nofun, fun _ => ⟨rfl, rfl, rfl⟩, show (0 : Temp12) ≠ 0x800 by decide⟩

theorem ArmWrite.resultPorts {s t : State} (h : ArmWrite s t) (ht : t.state ≠ .result) : t.resultPorts = s.resultPorts := by
  cases h with
  | goto => rfl
  | capture => rfl
  | reject => exact absurd rfl ht
  | accept => exact absurd rfl ht
  | crc => rfl

/-! ## The counter -/

theorem ArmWrite.cnt {s t : State} (h : ArmWrite s t) (hs : s.state ≠ .crcRun → s.cnt = 0) (ht : t.state ≠ .crcRun) :
    t.cnt = 0 := by
  cases h with
  | goto t outside => exact hs outside
  | capture len data outside => exact hs outside
  | reject c outside => exact hs outside
  | accept id temp hum outside => exact hs outside
  | crc c n t next =>
    obtain running | ⟨-, wrapped⟩ := next
    · exact absurd running ht
    · exact wrapped

/-! ## The edges and the steps -/

theorem inv_edge {s : State} (h : Inv s) : Inv (edge s) := by
  obtain ⟨phase, counter, sound⟩ := (inv_iff s).mp h
  have next := (edgePairs phase).phase
  refine (inv_iff _).mpr ⟨next, ?_⟩
  cases hr : s.nextPins.rst with
  | true =>
    rw [edge_of_reset s hr]
    exact ⟨fun _ => rfl, sound_toReset _⟩
  | false =>
    have write : ArmWrite (s.elapse 1) (edge s) := edge_of_noReset s hr ▸ arm_write _ _
    refine ⟨write.cnt counter, ?_⟩
    by_cases result : (edge s).state = .result
    · rw [resultPorts_of_phaseInv next result]
      exact sound_decodeRow _ _
    · rw [write.resultPorts result]
      exact sound

theorem inv_edges (n : Nat) {s : State} (h : Inv s) : Inv (edges n s) := by
  induction n generalizing s with
  | zero => exact h
  | succ n ih => exact ih (inv_edge h)

/-- Settles O57. -/
theorem everyEdgeKeepsTheInvariant : Obligations.EveryEdgeKeepsTheInvariant := by
  unfold Obligations.EveryEdgeKeepsTheInvariant
  exact fun _ => inv_edge

/-- Settles O58: a step is whole edges, and each keeps the invariant. -/
theorem everyStepKeepsTheInvariant : Obligations.EveryStepKeepsTheInvariant := by
  unfold Obligations.EveryStepKeepsTheInvariant
  intro s h
  obtain ⟨n, -, -, answer, -⟩ := everyStepIsWholeEdges s
  exact ⟨edges n s, answer, inv_edges n h⟩

end Sys2Proof.Machine
end

/-! # The CRC: its serial and bytewise forms, its run in the state machine, and what the check catches (41_crc.md) -/

section
/-!
The serial CRC of the state machine (R114, R132-R134).
-/
namespace Sys2Proof.Machine

/-! ## The two forms -/

/-- Settles O38: byte by byte, eight serial steps are one bytewise step. -/
theorem serialCrcIsBytewiseCrc : Obligations.SerialCrcIsBytewiseCrc := by
  unfold Obligations.SerialCrcIsBytewiseCrc
  intro b1 b2 b3 b4
  change crcFold Config.crcInit (byteBits b1 8 ++ (byteBits b2 8 ++ (byteBits b3 8 ++ (byteBits b4 8 ++ [])))) = _
  simp only [crc8_eq, crcFold_append, crcFold_byteBits, crcFold_nil]

/-! ## CRC_RUN -/

/-- A shift of the register is a doubling modulo 256. -/
theorem byte_shiftLeft_one (c : Byte) : c <<< 1 = BitVec.ofNat 8 (c.toNat * 2 % 256) := by
  bv_omega

/-- R132 in numbers. -/
theorem crcStep_eq_ofNat (c : Byte) (b : Bool) : crcStep c b =
    if (c.getLsbD 7 ^^ b) = true then BitVec.ofNat 8 (c.toNat * 2 % 256) ^^^ 0x31
    else BitVec.ofNat 8 (c.toNat * 2 % 256) := by
  rw [← byte_shiftLeft_one, ← BitVec.msb_eq_getLsbD_last c]
  rfl

theorem count5_add_one (n : Count5) : n + 1 = BitVec.ofNat 5 ((n.toNat + 1) % 32) := by
  bv_omega

/-- Settles O20. -/
theorem crcRunEdge : Obligations.CrcRunEdge := by
  unfold Obligations.CrcRunEdge
  intro s hs hr
  have last : s.cnt.toNat = 31 ↔ s.cnt = 31 := BitVec.toNat_inj (y := 31#5)
  rw [edge_crcRun hr hs, ← crcStep_eq_ofNat, ← count5_add_one]
  simp only [last]
  rfl

/-- Settles O39: the run's closed form, and at its end the fold is of all the covered bits. -/
theorem crcRunFoldsTheRow : Obligations.CrcRunFoldsTheRow := by
  unfold Obligations.CrcRunFoldsTheRow
  intro s k hs hm hk hr
  rw [edges_of_chkMark hs hm hk hr]
  refine ⟨rfl, BitVec.toNat_ofNat k 5, rfl, ?_⟩
  rintro rfl
  exact crcFold_coveredBits s.frameR

end Sys2Proof.Machine
end

section
/-!
Linearity and the zero remainder (R135, R136 (a) and (b)).
-/
namespace Sys2Proof.Machine

/-! ## Linearity -/

/-- One byte into the XOR of two registers, itself the XOR of two bytes. -/
theorem crcShifts_xor_xor (n : Nat) (c d a b : Byte) :
    crcShifts n ((c ^^^ d) ^^^ (a ^^^ b)) = crcShifts n (c ^^^ a) ^^^ crcShifts n (d ^^^ b) := by
  rw [← crcShifts_xor, BitVec.xor_assoc, BitVec.xor_assoc, ← BitVec.xor_assoc d, BitVec.xor_comm d, BitVec.xor_assoc]

/-- Settles O40: the initial value is 0, so it is the XOR of two initial values, and every byte step is linear. -/
theorem crcIsLinear : Obligations.CrcIsLinear := by
  unfold Obligations.CrcIsLinear
  intro a1 a2 a3 a4 b1 b2 b3 b4
  have init : Config.crcInit = Config.crcInit ^^^ Config.crcInit := rfl
  simp only [crc8_eq]
  rw [init, crcShifts_xor_xor, crcShifts_xor_xor, crcShifts_xor_xor, crcShifts_xor_xor]
  rfl

/-! ## The zero remainder -/

/-- A shift loses no register: with the top bit out, the polynomial sets bit 0; without it, the shift keeps every bit. -/
theorem crcShift_eq_zero_iff (c : Byte) : crcShift c = 0 ↔ c = 0 := by
  refine ⟨fun h => ?_, by rintro rfl; rfl⟩
  unfold crcShift at h
  split at h
  case isTrue top =>
    have bit0 := congrArg (BitVec.getLsbD · 0) h
    simp [Config.crcPoly] at bit0
  case isFalse top =>
    rw [BitVec.msb_eq_decide, decide_eq_true_iff] at top
    bv_omega

theorem crcShifts_eq_zero_iff (n : Nat) (c : Byte) : crcShifts n c = 0 ↔ c = 0 := by
  induction n with
  | zero => rfl
  | succ n ih => rw [crcShifts_succ, crcShift_eq_zero_iff, ih]

/-- What the check compares with zero: the CRC of bytes 1..4 against byte 5 (R135). -/
def rowSyndrome (w : Frame48) : Byte :=
  crc8 (rowByte w 1) (rowByte w 2) (rowByte w 3) (rowByte w 4) ^^^ rowByte w 5

theorem rowSyndrome_eq_zero_iff (w : Frame48) : rowSyndrome w = 0 ↔
    crc8 (rowByte w 1) (rowByte w 2) (rowByte w 3) (rowByte w 4) = rowByte w 5 :=
  BitVec.xor_eq_zero_iff

/-- The fold over bytes 1..5 takes byte 5 as one more byte of the CRC. -/
theorem crcFold_rowBits_40 (w : Frame48) : crcFold Config.crcInit (rowBits w 8 40) = crcShifts 8 (rowSyndrome w) := by
  rw [rowBits_add w 8 32 8, crcFold_append, crcFold_coveredBits, show rowBits w (8 + 32) 8 = _ from rowBits_byte w 5,
    crcFold_byteBits, rowSyndrome]

theorem crcFold_rowBits_40_eq_zero_iff (w : Frame48) :
    crcFold Config.crcInit (rowBits w 8 40) = 0 ↔ rowSyndrome w = 0 := by
  rw [crcFold_rowBits_40, crcShifts_eq_zero_iff]

/-- Settles O41: the fold is eight shifts of the syndrome, and shifts keep it from zero. -/
theorem checkPassesOnZeroRemainder : Obligations.CheckPassesOnZeroRemainder := by
  unfold Obligations.CheckPassesOnZeroRemainder
  exact fun w => (rowSyndrome_eq_zero_iff w).symm.trans (crcFold_rowBits_40_eq_zero_iff w).symm

end Sys2Proof.Machine
end

section
/-!
What the check catches in an accepted row (R136 (c) and (d), R137).
-/
namespace Sys2Proof.Machine

/-! ## Zero bytes -/

/-- The initial value 0 stays 0 under zero bytes. -/
theorem crc8_zero : crc8 0x00 0x00 0x00 0x00 = 0x00 := by
  have shifts : crcShifts 8 0 = 0 := (crcShifts_eq_zero_iff 8 0).mpr rfl
  have start : Config.crcInit ^^^ 0 = 0 := rfl
  have next : (0 : Byte) ^^^ 0 = 0 := rfl
  rw [crc8_eq, start, shifts, next, shifts, next, shifts, next, shifts]

/-! ## A changed row -/

theorem rowByte_xor (v w : Frame48) (i : Fin 6) : rowByte (v ^^^ w) i = rowByte v i ^^^ rowByte w i :=
  BitVec.extractLsb'_xor

theorem rowSyndrome_xor (v w : Frame48) : rowSyndrome (v ^^^ w) = rowSyndrome v ^^^ rowSyndrome w := by
  simp only [rowSyndrome, rowByte_xor, crcIsLinear _ _ _ _ _ _ _ _]
  ac_rfl

/-- The three checks that an accepted row has passed (R101). -/
theorem checks_of_decodeRow_eq_accept {len : Len16} {w : Frame48} {id hum : Byte} {temp : Int}
    (h : decodeRow len w = .accept id temp hum) :
    48 ≤ len.toNat ∧ rowByte w 0 = Config.marker ∧ rowSyndrome w = 0 := by
  obtain hl | ⟨hl, hm⟩ | ⟨hl, hm⟩ := row_cases len w
  · simp [decodeRow_of_short hl] at h
  · simp [decodeRow_of_marker hl hm] at h
  · refine ⟨hl, hm, (rowSyndrome_eq_zero_iff w).mpr ?_⟩
    by_contra hc
    simp [decodeRow_of_crc hl hm hc] at h

/-! ## One wrong bit -/

/-- Zero bits into the register are shifts. -/
theorem crcFold_replicate_false (n : Nat) (c : Byte) : crcFold c (List.replicate n false) = crcShifts n c := by
  induction n generalizing c with
  | zero => rfl
  | succ n ih =>
    have shift : crcStep c false = crcShift c := by simp [crcStep, crcShift]
    rw [List.replicate_succ, crcFold_cons, shift, ih, crcShifts]

/-- A single 1 among zeros leaves a nonzero remainder: it sets the register to the polynomial, and shifts do not clear it. -/
theorem crcFold_single_one_ne_zero (m n : Nat) :
    crcFold Config.crcInit (List.replicate m false ++ true :: List.replicate n false) ≠ 0 := by
  have zeros : crcShifts m Config.crcInit = 0 := (crcShifts_eq_zero_iff m _).mpr rfl
  have one : crcStep 0 true ≠ 0 := by decide
  rw [crcFold_append, crcFold_replicate_false, zeros, crcFold_cons, crcFold_replicate_false, ne_eq, crcShifts_eq_zero_iff]
  exact one

/-- Bit `k` of bytes 1..5 of the word is the row bit with `39 - k` before it and `k` after it (R51). -/
theorem rowBits_twoPow {k : Nat} (hk : k < 40) :
    rowBits (BitVec.twoPow 48 k) 8 40 = List.replicate (39 - k) false ++ true :: List.replicate k false := by
  have bit (j : Nat) (hj : j < 40) : rowBit (BitVec.twoPow 48 k) (8 + j) = decide (j = 39 - k) := by
    rw [rowBit_eq_getLsbD _ (by omega), BitVec.getLsbD_twoPow]
    grind
  refine List.ext_getElem (by simp [rowBits]; omega) fun j hj _ => ?_
  have hj : j < 40 := by simpa [rowBits] using hj
  simp only [rowBits, List.getElem_map, List.getElem_range, bit j hj]
  grind

theorem rowSyndrome_twoPow_ne_zero {k : Nat} (hk : k < 40) : rowSyndrome (BitVec.twoPow 48 k) ≠ 0 := by
  rw [ne_eq, ← crcFold_rowBits_40_eq_zero_iff, rowBits_twoPow hk]
  exact crcFold_single_one_ne_zero (39 - k) k

/-- A bit below bit 40 is none of byte 0's (R51). -/
theorem rowByte_zero_twoPow {k : Nat} (hk : k < 40) : rowByte (BitVec.twoPow 48 k) 0 = 0 := by
  refine BitVec.eq_of_getLsbD_eq fun j hj => ?_
  have other : k ≠ 40 + j := by omega
  simp [rowByte_getLsbD, BitVec.getLsbD_twoPow, other]

/-- Settles O42: the length and the marker still pass, and the syndrome becomes that of the wrong bit alone. -/
theorem singleBitErrorIsCaught : Obligations.SingleBitErrorIsCaught := by
  unfold Obligations.SingleBitErrorIsCaught
  intro len w k id h temp accepted hk
  obtain ⟨hl, hm, hc⟩ := checks_of_decodeRow_eq_accept accepted
  refine decodeRow_of_crc hl ?_ ?_
  · simp [rowByte_xor, rowByte_zero_twoPow hk, hm]
  · rw [ne_eq, ← rowSyndrome_eq_zero_iff, rowSyndrome_xor, hc]
    simpa using rowSyndrome_twoPow_ne_zero hk

/-! ## A wrong byte 0 -/

theorem rowByte_foreignWord_zero (d : Byte) {i : Fin 6} (hi : i ≠ 0) : rowByte (foreignWord d 0) i = 0 := by
  refine BitVec.eq_of_getLsbD_eq fun j hj => ?_
  have below : 40 - 8 * i.val + j < 40 := by omega
  simp [rowByte_getLsbD, foreignWord_getLsbD, below]

/-- The CRC does not see byte 0 (R130). -/
theorem rowSyndrome_foreignWord_zero (d : Byte) : rowSyndrome (foreignWord d 0) = 0 := by
  simp only [rowSyndrome, rowByte_foreignWord_zero d (i := 1) (by decide), rowByte_foreignWord_zero d (i := 2) (by decide),
    rowByte_foreignWord_zero d (i := 3) (by decide), rowByte_foreignWord_zero d (i := 4) (by decide),
    rowByte_foreignWord_zero d (i := 5) (by decide), crc8_zero]
  rfl

/-- Settles O43: the change adds nothing to the syndrome, and byte 0 is no longer the marker. -/
theorem markerChangeIsCaughtByTheMarkerCheck : Obligations.MarkerChangeIsCaughtByTheMarkerCheck := by
  unfold Obligations.MarkerChangeIsCaughtByTheMarkerCheck
  intro len w d id h temp accepted hd
  obtain ⟨hl, hm, hc⟩ := checks_of_decodeRow_eq_accept accepted
  change crcFails (w ^^^ foreignWord d 0) = false ∧ decodeRow len (w ^^^ foreignWord d 0) = .reject .marker
  constructor
  · rw [← Bool.not_eq_true, crcFails_iff, not_not, ← rowSyndrome_eq_zero_iff, rowSyndrome_xor, hc,
      rowSyndrome_foreignWord_zero]
    rfl
  · refine decodeRow_of_marker hl ?_
    rw [rowByte_xor, rowByte_zero (foreignWord d 0), markerField_foreignWord, hm]
    simpa using hd

/-! ## The all-zero fields -/

/-- Settles O44: the row is the frame of zero fields, whose checksum byte is 0. -/
theorem allZeroFieldsAreAccepted : Obligations.AllZeroFieldsAreAccepted := by
  unfold Obligations.AllZeroFieldsAreAccepted
  refine ⟨crc8_zero, fun len s hl => ?_⟩
  have fields : packBytes 0xFE 0 0 0 0 0 = frameWord 0 0 0 0 0 := by simp [packBytes, frameWord, Config.marker]
  have checksum : frameCrc 0 0 0 0 = 0 := crc8_zero
  have passes : crcFails (frameWord 0 0 0 0 0) = false := by
    rw [← Bool.not_eq_true, crcFails_frameWord_iff, checksum, not_not]
  rw [fields, decode_frameWord hl, exec_decodeFrame_of_not_crcFails passes]
  exact ⟨_, rfl, rfl⟩

end Sys2Proof.Machine
end

/-! # The fields, the temperature and the reading (42_field_extraction.md) -/

section
/-!
The field formulas, the temperature as register and as code, and the reading of an accepted frame (R151-R157, R182).
-/
namespace Sys2Proof.Machine

/-! ## The field formulas -/

/-- Settles O45: EXTRACT writes the slices, and the formulas are the slices. -/
theorem fieldFormulasAreSlices : Obligations.FieldFormulasAreSlices := by
  unfold Obligations.FieldFormulasAreSlices
  refine ⟨fun s hs hr => ?_, fun w => ⟨idOf_eq_idField w, tregOf_eq_tregField w, idOf_eq_idField w, tregOf_eq_tregField w,
    humOf_eq_humField w⟩⟩
  rw [edge_extract hr hs]
  exact ⟨(idOf_eq_idField s.frameR).symm, (humOf_eq_humField s.frameR).symm⟩

/-! ## The temperature register -/

theorem temp12_bit11_eq_false_iff (r : Temp12) : r.getLsbD 11 = false ↔ r.toNat < 2048 := by
  rw [temp12_bit11, decide_eq_false_iff_not, Nat.not_le]

theorem temp12_bit11_eq_true_iff (r : Temp12) : r.getLsbD 11 = true ↔ 2048 ≤ r.toNat := by
  rw [temp12_bit11, decide_eq_true_iff]

theorem temp12_toInt_of_lt {r : Temp12} (h : r.toNat < 2048) : r.toInt = r.toNat :=
  BitVec.toInt_eq_toNat_of_lt (by omega)

theorem temp12_toInt_of_le {r : Temp12} (h : 2048 ≤ r.toNat) : r.toInt = r.toNat - 4096 := by
  rw [BitVec.toInt_eq_toNat_cond, if_neg (by omega)]
  rfl

/-- With the sign bit set, `2048 - r` and `r - 4096` meet only halfway, at `r = 3072` (R153). -/
theorem toInt_eq_sm12_iff_of_le {r : Temp12} (h : 2048 ≤ r.toNat) : r.toInt = sm12 r ↔ r = 0xC00 := by
  rw [temp12_toInt_of_le h, sm12_of_le h, ← BitVec.toNat_inj, show (0xC00 : Temp12).toNat = 3072 from rfl]
  omega

/-- Settles O46: register by register, below 0x800 and from there on. -/
theorem signMagnitudeDecoding : Obligations.SignMagnitudeDecoding := by
  unfold Obligations.SignMagnitudeDecoding
  intro r
  obtain ⟨hlo, hhi⟩ := sm12_bounds r
  rw [temp12_bit11_eq_false_iff, temp12_bit11_eq_true_iff]
  refine ⟨sm12_of_lt, sm12_of_le, hlo, hhi, ?_⟩
  obtain h | h := Nat.lt_or_ge r.toNat 2048
  · exact iff_of_true ((temp12_toInt_of_lt h).trans (sm12_of_lt h).symm) (.inl h)
  · rw [toInt_eq_sm12_iff_of_le h, or_iff_right (Nat.not_lt.mpr h)]

/-! ## The temperature code -/

theorem tempOfCode_tempCode_sm12 (r : Temp12) : tempOfCode (tempCode (sm12 r)) = sm12 r :=
  tempOfCode_tempCode (sm12_bounds r).left (sm12_bounds r).right

/-- A code other than 0x800 stands for an integer that a register holds, and that register is built for it (R81, R154). -/
theorem tempCode_sm12_tregOfTemp {c : Temp12} (h : c ≠ 0x800) : tempCode (sm12 (tregOfTemp c.toInt)) = c := by
  have lower : -2048 ≤ c.toInt := BitVec.le_toInt c
  have upper : c.toInt < 2048 := BitVec.toInt_lt
  have not_lowest : c.toInt ≠ -2048 := fun e => h (BitVec.eq_of_toInt_eq e)
  rw [sm12_tregOfTemp (by omega) (by omega)]
  exact BitVec.ofInt_toInt

/-- Settles O47: the code reads back in the register's range, and every code but that of -2048 has its register. -/
theorem temperatureCode : Obligations.TemperatureCode := by
  unfold Obligations.TemperatureCode
  refine ⟨fun r => ⟨rfl, ?_, tempOfCode_tempCode_sm12 r⟩, fun c => ⟨?_, fun h => ⟨_, tempCode_sm12_tregOfTemp h⟩⟩⟩
  · rw [← tempOfCode_eq_toInt, tempOfCode_tempCode_sm12]
  · rintro ⟨r, rfl⟩
    exact tempCode_sm12_ne r

/-! ## The reading -/

/-- R182 after an acceptance: the temperature's code is read back as the register's integer. -/
theorem reading_accept_sm12 (s : State) (id : Byte) (r : Temp12) (hum : Byte) :
    (s.accept id (sm12 r) hum).resultPorts.reading =
      some { id := id.toNat, temperatureCelsius := (sm12 r : Rat) / 20, humidityPercent := (hum.toNat : Rat) / 2 } := by
  change some (SensorReading.mk id.toNat ((tempOfCode (tempCode (sm12 r)) : Rat) / 20) ((hum.toNat : Rat) / 2)) = _
  rw [tempOfCode_tempCode_sm12]

/-- R155: the range of the register in twentieths of a degree. -/
theorem sm12_twentieth_bounds (r : Temp12) :
    -(10235 : Rat) / 100 ≤ (sm12 r : Rat) / 20 ∧ (sm12 r : Rat) / 20 ≤ 10235 / 100 := by
  obtain ⟨hlo, hhi⟩ := sm12_bounds r
  have lower : (-2047 : Rat) ≤ sm12 r := by exact_mod_cast hlo
  have upper : (sm12 r : Rat) ≤ 2047 := by exact_mod_cast hhi
  constructor <;> linarith

/-- R157: the range of the humidity byte in halves of a percent. -/
theorem byte_half_le (b : Byte) : (b.toNat : Rat) / 2 ≤ 1275 / 10 := by
  have upper : (b.toNat : Rat) ≤ 255 := by exact_mod_cast Nat.le_of_lt_succ b.isLt
  linarith

/-- Settles O48: a frame that passes the check answers an acceptance of its own fields, on rows of every length. -/
theorem readingIsExact : Obligations.ReadingIsExact := by
  unfold Obligations.ReadingIsExact
  intro len u id treg hum crc s passes
  obtain ⟨lower, upper⟩ := sm12_twentieth_bounds treg
  exact ⟨_, exec_decodeFrame_of_not_crcFails passes len s, reading_accept_sm12 _ id treg hum, lower, upper, byte_half_le hum⟩

end Sys2Proof.Machine
end

/-! # The reading encoder: the rendered decimals, and the record of a result (43_reading_encoder.md) -/

section
/-!
The record handed to the reporting collaborator, and the decimals in it.
-/
namespace Sys2Proof.Machine

/-! ## Exact decimals (R183, R185, R186) -/

/-- A quotient is its integer part and its remainder scaled to a finer denominator, without rounding: the decimal digits
of R185 (twentieths in hundredths) and R186 (halves in tenths) are both of this form. -/
theorem div_eq_intPart_add_digits (a d k : Nat) (hd : d ≠ 0) (hk : k ≠ 0) :
    (a : Rat) / d = ((a / d : Nat) : Rat) + ((a % d * k : Nat) : Rat) / (d * k : Nat) := by
  have hd' : (d : Rat) ≠ 0 := Nat.cast_ne_zero.mpr hd
  have hk' : (k : Rat) ≠ 0 := Nat.cast_ne_zero.mpr hk
  have division : (d : Rat) * (a / d : Nat) + (a % d : Nat) = a := by exact_mod_cast Nat.div_add_mod a d
  calc (a : Rat) / d = (d * (a / d : Nat) + (a % d : Nat)) / d := by rw [division]
    _ = (a / d : Nat) + (a % d : Nat) / d := by rw [add_div, mul_div_cancel_left₀ _ hd']
    _ = _ := by rw [Nat.cast_mul, Nat.cast_mul, mul_div_mul_right _ _ hk']

/-- The hundredths of R185 end at 95. -/
theorem tempHundredths_le (t : Int) : tempHundredths t ≤ 95 := by
  have below : t.natAbs % 20 < 20 := Nat.mod_lt _ (by decide)
  unfold tempHundredths
  omega

/-- R185: the rendering piece by piece, the two digits as a padding zero and a numeral. -/
theorem renderTemp_eq (t : Int) :
    renderTemp t = (if t < 0 then "-" else "") ++ Nat.repr (tempIntPart t) ++ "." ++
      (if tempHundredths t < 10 then "0" else "") ++ Nat.repr (tempHundredths t) :=
  (String.append_assoc ..).symm

/-- Settles O50: the rendering is R185's own, and a twentieth of a degree is five hundredths. -/
theorem renderedTemperatureIsExact : Obligations.RenderedTemperatureIsExact := by
  unfold Obligations.RenderedTemperatureIsExact
  intro t _ _
  exact ⟨renderTemp_eq t, div_eq_intPart_add_digits t.natAbs 20 5 (by decide) (by decide), tempHundredths_le t⟩

/-- The digit of R186: the remainder by 2, in tenths. -/
theorem mod_two_mul_five (h : Nat) : ((h % 2 * 5 : Nat) : Rat) = if h % 2 = 1 then 5 else 0 := by
  obtain even | odd := Nat.mod_two_eq_zero_or_one h
  · simp [even]
  · simp [odd]

/-- R186: the one digit shows every humidity exactly. -/
theorem half_eq_intPart_add_digit (h : Nat) :
    (h : Rat) / 2 = ((h / 2 : Nat) : Rat) + (if h % 2 = 1 then 5 else 0) / 10 := by
  rw [← mod_two_mul_five]
  exact div_eq_intPart_add_digits h 2 5 (by decide) (by decide)

/-! ## The record (R181, R184) -/

theorem reading_of_rejected {r : ResultPorts} (h : r.accept = false) : r.reading = none := by
  rw [ResultPorts.reading, h, if_neg Bool.false_ne_true]

theorem record_of_rejected (name : String) {r : ResultPorts} (h : r.accept = false) : r.record name = none := by
  rw [ResultPorts.record, h, if_neg Bool.false_ne_true]

theorem record_of_accepted (name : String) {r : ResultPorts} (h : r.accept = true) :
    r.record name =
      some { model := name, id := r.id.toNat, temperature := renderTemp (tempOfCode r.temp),
             humidity := renderHum r.hum.toNat } :=
  if_pos h

/-- Settles O51: by the two values of the accept port; the humidity's digit is exact on every byte. -/
theorem recordOnlyForAcceptedResult : Obligations.RecordOnlyForAcceptedResult := by
  unfold Obligations.RecordOnlyForAcceptedResult
  intro name r
  refine ⟨fun rejected => ⟨record_of_rejected name rejected, reading_of_rejected rejected⟩, fun accepted => ?_,
    half_eq_intPart_add_digit r.hum.toNat⟩
  rw [record_of_accepted name accepted]
  rfl

end Sys2Proof.Machine
end

/-! # Exceptions and waits: that every step answers, what an edge samples, and the two waits (60_exceptions.md) -/

section
/-!
What every step answers (R200), and which input levels an edge reads (R204, U5).
-/
namespace Sys2Proof.Machine

/-! ## The step -/

theorem step_of_not_inputHandshake {s : State} (h : s.inputHandshake = false) : step s = .next (edge s) := by
  have offered : s.offered = none := by simp [State.offered, h]
  simp [step, offered]

/-- The meanings fault on no term and refuse none (R200). -/
theorem exec_answers (i : Instr) (s : State) : ∃ t, exec i s = .next t := by
  obtain ⟨_, _, rejected⟩ | ⟨_, accepted⟩ := exec_cases i s
  · exact ⟨_, rejected⟩
  · exact ⟨_, accepted⟩

theorem step_answers (s : State) : ∃ t, step s = .next t := by
  obtain ⟨-, stepped⟩ | ⟨_, _, -, -, stepped⟩ | ⟨i, -, -, stepped⟩ := step_cases s
  · exact ⟨_, stepped⟩
  · exact ⟨_, stepped⟩
  · rw [stepped]
    exact exec_answers i s

/-- Settles O12: an edge, an abandonment and a decode class each answer, and without an input handshake the step is the
edge. -/
theorem everyStepAnswers : Obligations.EveryStepAnswers := by
  unfold Obligations.EveryStepAnswers
  exact fun s => ⟨step_answers s, step_of_not_inputHandshake⟩

/-! ## The levels an edge reads -/

/-- Outside RESULT an arm does not read the consumer's level (R117). -/
theorem arm_setOutReady {s : State} (hs : s.state ≠ .result) (p : Pins) (ready : Bool) :
    arm { p with outReady := ready } s = arm p s := by
  unfold arm
  cases hst : s.state
  case result => exact absurd hst hs
  all_goals rfl

theorem edge_cons_eq_of_reset (s : State) {p q : Pins} (hp : p.rst = true) (hq : q.rst = true) (ps : List Pins) :
    edge { s with pins := p :: ps } = edge { s with pins := q :: ps } := by
  rw [edge_cons, edge_cons, if_pos hp, if_pos hq]

theorem edge_cons_setOutReady {s : State} (hs : s.state ≠ .result) (p : Pins) (ready : Bool) (ps : List Pins) :
    edge { s with pins := { p with outReady := ready } :: ps } = edge { s with pins := p :: ps } := by
  have sameArm : arm { p with outReady := ready } { s with pins := ps } = arm p { s with pins := ps } :=
    arm_setOutReady (s := { s with pins := ps }) hs p ready
  rw [edge_cons, edge_cons, sameArm]

/-- Settles O37: a reset overrides the arms; outside IDLE and outside RESULT no arm reads that wait's inputs. -/
theorem unsampledInputsAreIgnored : Obligations.UnsampledInputsAreIgnored := by
  unfold Obligations.UnsampledInputsAreIgnored
  exact fun s p q ps => ⟨fun hp hq => edge_cons_eq_of_reset s hp hq ps, fun hs hr ho => edge_cons_eq hs p q hr ho ps,
    fun hs => (edge_cons_setOutReady hs p _ ps).symm⟩

end Sys2Proof.Machine
end

section
/-!
The two waits (R213). The edges that a state can be from a wait are counted down by every edge outside the waits, whatever
the registers hold.
-/
namespace Sys2Proof.Machine

/-! ## The edges up to a wait -/

/-- The most edges from `s` to IDLE or RESULT, as the sequencer's state and the counter bound them (R112-R118). A rejection
comes there sooner. -/
def State.edgesToWait (s : State) : Nat :=
  match s.state with
  | .idle | .result => 0
  | .chkLen => 36
  | .chkMark => 35
  | .crcRun => 34 - s.cnt.toNat
  | .chkCrc => 2
  | .extract | .unused => 1

theorem edgesToWait_le (s : State) : s.edgesToWait ≤ 36 := by
  unfold State.edgesToWait
  cases s.state <;> dsimp only <;> omega

/-- In CRC_RUN the counter is below 32, so it has not come to a wait. -/
theorem edgesToWait_eq_zero_iff (s : State) : s.edgesToWait = 0 ↔ s.state = .idle ∨ s.state = .result := by
  have count := s.cnt.isLt
  unfold State.edgesToWait
  cases s.state <;> simp
  omega

/-- A check that rejects or goes on to `t` comes as near to a wait as `t` does: a rejection is in RESULT. -/
theorem edgesToWait_check_lt {s t : State} {n : Nat} (h : t.edgesToWait < n) (c : Cause) (fails : Prop)
    [Decidable fails] : (if fails then s.reject c else t).edgesToWait < n :=
  iteInduction (motive := fun t : State => t.edgesToWait < n) (fun _ => Nat.zero_lt_of_lt h) (fun _ => h)

/-- From any CNT the counter goes up to 31, and the edge at 31 leaves CRC_RUN (R114). -/
theorem edgesToWait_armCrcRun_lt (s : State) : (armCrcRun s).edgesToWait < 34 - s.cnt.toNat := by
  unfold armCrcRun
  split
  case isTrue last =>
    rw [last]
    exact Nat.lt_succ_self 2
  case isFalse more =>
    change 34 - (s.cnt + 1).toNat < 34 - s.cnt.toNat
    rw [toNat_add_one_of_ne more]
    omega

/-- Outside the waits every arm brings a wait nearer. -/
theorem edgesToWait_arm_lt {s : State} (hi : s.state ≠ .idle) (hr : s.state ≠ .result) (p : Pins) :
    (arm p s).edgesToWait < s.edgesToWait := by
  rw [State.edgesToWait.eq_def s, arm]
  cases hs : s.state
  case idle => exact absurd hs hi
  case result => exact absurd hs hr
  case chkLen => exact edgesToWait_check_lt (Nat.lt_succ_self 35) _ _
  case chkMark => exact edgesToWait_check_lt (Nat.lt_succ_self 34) _ _
  case crcRun => exact edgesToWait_armCrcRun_lt s
  case chkCrc => exact edgesToWait_check_lt (Nat.lt_succ_self 1) _ _
  case extract => exact Nat.zero_lt_one
  case unused => exact Nat.zero_lt_one

/-- Without a reset the block is in a wait within the edges counted. -/
theorem exists_edges_wait (n : Nat) {s : State} (hn : s.edgesToWait ≤ n) (hr : s.noResetFor n) :
    ∃ m ≤ n, (edges m s).state = .idle ∨ (edges m s).state = .result := by
  induction n generalizing s with
  | zero => exact ⟨0, le_refl 0, (edgesToWait_eq_zero_iff s).mp (Nat.le_zero.mp hn)⟩
  | succ n ih =>
    by_cases wait : s.state = .idle ∨ s.state = .result
    · exact ⟨0, Nat.zero_le _, wait⟩
    · obtain ⟨hi, hs⟩ := not_or.mp wait
      obtain ⟨noReset, rest⟩ := (State.noResetFor_succ s (edge s) n (edge_pins s)).mp hr
      have nearer : (edge s).edgesToWait < s.edgesToWait := by
        rw [edge_of_noReset s noReset]
        exact edgesToWait_arm_lt (s := s.elapse 1) hi hs s.nextPins
      obtain ⟨m, within, there⟩ := ih (by omega) rest
      exact ⟨m + 1, by omega, there⟩

/-! ## The waits -/

theorem edge_stays_idle_iff {s : State} (hr : s.nextPins.rst = false) (hs : s.state = .idle) :
    (edge s).state = .idle ↔ s.nextPins.inValid = false := by
  cases hv : s.nextPins.inValid with
  | false => simp [edge_idle_wait hs hr hv]
  | true => simp [edge_of_takes ⟨hs, hr, hv, rfl, rfl⟩]

theorem edge_stays_result_iff {s : State} (hr : s.nextPins.rst = false) (hs : s.state = .result) :
    (edge s).state = .result ↔ s.nextPins.outReady = false := by
  cases ho : s.nextPins.outReady with
  | false => simp [edge_result_wait hs hr ho, hs]
  | true => simp [edge_result_given hs hr ho]

/-- Settles O55: no state is more than 36 edges from a wait, and one outside the waits needs at least one. -/
theorem onlyTwoWaits : Obligations.OnlyTwoWaits := by
  unfold Obligations.OnlyTwoWaits
  refine ⟨fun s hi hs hr => ?_, fun s => edge_stays_idle_iff, fun s => edge_stays_result_iff⟩
  obtain ⟨m, within, wait⟩ := exists_edges_wait 36 (edgesToWait_le s) hr
  have moved : m ≠ 0 := by
    rintro rfl
    exact wait.elim hi hs
  exact ⟨m, Nat.one_le_iff_ne_zero.mpr moved, within, wait⟩

end Sys2Proof.Machine
end

/-! # Reset and hazards: what a reset does, the result while it is offered, and the latencies (70_reset_and_hazards.md) -/

section
/-!
The reset edge (R230, R233) and the transaction that a reset abandons (R232).
-/
namespace Sys2Proof.Machine

/-! ## The reset edge -/

/-- `rst = 1` overrides the offer of a row (R21, R230). -/
theorem inputHandshake_of_reset {s : State} (hr : s.nextPins.rst = true) : s.inputHandshake = false := by
  simp [State.inputHandshake, hr]

/-- In IDLE an offer without reset is all that an input handshake takes (R21). -/
theorem inputHandshake_of_idle {s : State} (hs : s.state = .idle) :
    s.inputHandshake = (s.nextPins.inValid && !s.nextPins.rst) := by
  simp [State.inputHandshake, hs]

/-- Settles O13: a reset edge is no input handshake, so it is a step of its own. -/
theorem resetEdgeLoadsEveryRegister : Obligations.ResetEdgeLoadsEveryRegister := by
  unfold Obligations.ResetEdgeLoadsEveryRegister
  exact fun s hr => ⟨edge_of_reset s hr, step_of_not_inputHandshake (inputHandshake_of_reset hr)⟩

/-- Settles O16: the state after a reset edge is IDLE with zero registers, and a second reset leaves nothing of the first but
its levels used up. -/
theorem readyAfterOneResetEdge : Obligations.ReadyAfterOneResetEdge := by
  unfold Obligations.ReadyAfterOneResetEdge
  intro s hr
  have reset := edge_of_reset s hr
  exact ⟨congrArg State.outputs reset, inputHandshake_of_idle (congrArg State.state reset), edges_abandon (k := 0)⟩

/-- Settles O56: IDLE asks nothing, CNT is 0, and zero result registers are sound. -/
theorem resetMeetsTheInvariant : Obligations.ResetMeetsTheInvariant := by
  unfold Obligations.ResetMeetsTheInvariant
  exact (inv_iff _).mpr ⟨phaseInv_of_idle rfl, fun _ => rfl, sound_toReset State.reset⟩

/-! ## The transaction that a reset abandons, edge by edge -/

/-- RESULT without a result handshake and without a reset has no ready consumer (R21). -/
theorem outReady_of_noResultHandshake {s : State} (hs : s.state = .result) (hr : s.nextPins.rst = false)
    (hg : s.resultHandshake = false) : s.nextPins.outReady = false := by
  simpa [State.resultHandshake, hs, hr] using hg

/-- A transaction that is neither reset nor answered stays in flight. -/
theorem edge_busy_of_noResultHandshake {s : State} (h : s.phaseInv) (hi : s.state ≠ .idle) (hr : s.nextPins.rst = false)
    (hg : s.resultHandshake = false) : (edge s).state ≠ .idle := by
  by_cases hs : s.state = .result
  · rw [edge_result_wait hs hr (outReady_of_noResultHandshake hs hr hg)]
    exact hi
  · exact (decodingAt_edge h hi hs hr).busy

/-- Nothing happens at the ports while a transaction in flight is neither reset nor answered. -/
theorem events_of_noResultHandshake (n : Nat) {s : State} (h : s.phaseInv) (hi : s.state ≠ .idle) (hr : s.noResetFor n)
    (hg : ∀ m, m < n → (edges m s).resultHandshake = false) : events n s = [] := by
  induction n generalizing s with
  | zero => rfl
  | succ n ih =>
    obtain ⟨noReset, rest⟩ := (State.noResetFor_succ s (edge s) n (edge_pins s)).mp hr
    have unanswered : s.resultHandshake = false := hg 0 (Nat.succ_pos n)
    have quiet : s.event = none :=
      event_eq_none noReset (fun hs => absurd hs hi) (fun hs => outReady_of_noResultHandshake hs noReset unanswered)
    have busy := edge_busy_of_noResultHandshake h hi noReset unanswered
    rw [events, quiet, ih (edgePairs h).phase busy rest fun m hm => hg (m + 1) (Nat.succ_lt_succ hm)]
    rfl

/-- Settles O14: the row is taken, no event follows it, and the reset is the event of its own edge, which overwrites every
register. -/
theorem resetAbandonsTheTransaction : Obligations.ResetAbandonsTheTransaction := by
  unfold Obligations.ResetAbandonsTheTransaction
  intro s len data k ht hr hg reset
  refine ⟨?_, edges_abandon reset⟩
  have start := decodingAt_edge_of_takes ht
  have rest := ((State.noResetFor_succ s (edge s) k (edge_pins s)).mp hr).2
  have silent : events k (edge s) = [] :=
    events_of_noResultHandshake k start.phase start.busy rest fun m hm => hg (m + 1) hm
  have last : (edges k (edge s)).event = some .reset := event_of_reset reset
  rw [events, event_of_takes ht, events_append k 1, silent, events, last]
  rfl

/-! ## The same by one step -/

/-- A reset comes only after the edges without one. -/
theorem State.noResetFor.le_of_reset {s : State} {m n : Nat} (h : s.noResetFor n)
    (reset : (edges m s).nextPins.rst = true) : n ≤ m := by
  by_contra hlt
  have noReset := h.nextPins_edges (Nat.not_le.mp hlt)
  simp [noReset] at reset

/-- `abandonedAt` finds the first reset edge within the decode (R232): any other edge it found would be a reset before the
first one, or would have the first one before it. -/
theorem abandonedAt_eq_some {s : State} {i : Instr} {k : Nat} (before : s.noResetFor (k + 1))
    (reset : (edges (k + 1) s).nextPins.rst = true) (within : k < latency i) : s.abandonedAt i = some k := by
  have noReset : s.nextPins.rst = false := before.nextPins_edges (Nat.succ_pos k)
  cases found : s.abandonedAt i with
  | none =>
    have whole := noResetFor_of_drop noReset ((firstReset_none_iff _ _).mp found)
    have outside := whole.le_of_reset reset
    omega
  | some j =>
    obtain ⟨-, foundReset, foundBefore⟩ := abandonedAt_some noReset found
    have notSooner := before.le_of_reset foundReset
    have notLater := foundBefore.le_of_reset reset
    exact congrArg some (by omega)

/-- Settles O15: the row is offered and its decode is abandoned at edge `k`, which is the second case of a step. -/
theorem stepAbandonsAtReset : Obligations.StepAbandonsAtReset := by
  unfold Obligations.StepAbandonsAtReset
  intro s len data k ht before reset within
  simp only [step, offered_of_takes ht, abandonedAt_eq_some before reset within]
  rfl

end Sys2Proof.Machine
end

section
/-!
The result while it is offered (R236), and the edges from an input handshake to the result and back to IDLE (R240).
-/
namespace Sys2Proof.Machine

/-! ## The wait for the consumer -/

/-- The consumer is not ready at the next edge, nor at the `n` after it. -/
theorem State.consumerHolds_succ {s t : State} {n : Nat} (h : t.pins = s.pins.drop 1) (ho : s.consumerHolds (n + 1)) :
    s.nextPins.outReady = false ∧ t.consumerHolds n := by
  unfold State.consumerHolds State.nextPins at *
  rw [h]
  cases hp : s.pins with
  | nil => simp [Pins.quiet]
  | cons => simpa [hp] using ho

/-- RESULT without a reset and without the consumer only uses up input levels (R117). -/
theorem edges_result_wait (n : Nat) {s : State} (hs : s.state = .result) (hr : s.noResetFor n) (ho : s.consumerHolds n) :
    edges n s = s.elapse n := by
  induction n generalizing s with
  | zero => rfl
  | succ n ih =>
    obtain ⟨noReset, noResetAfter⟩ := (State.noResetFor_succ s (s.elapse 1) n rfl).mp hr
    obtain ⟨held, heldAfter⟩ := State.consumerHolds_succ (t := s.elapse 1) rfl ho
    calc edges (n + 1) s = edges n (s.elapse 1) := by rw [edges_succ, edge_result_wait hs noReset held]
      _ = (s.elapse 1).elapse n := ih hs noResetAfter heldAfter
      _ = s.elapse (n + 1) := by rw [elapse_elapse, Nat.add_comm]

/-- Settles O53: the registers drive the outputs, and the wait writes none of them. -/
theorem resultIsStable : Obligations.ResultIsStable := by
  unfold Obligations.ResultIsStable
  intro s n hs hr ho
  rw [edges_result_wait n hs hr ho]
  exact ⟨rfl, hs⟩

/-! ## The latencies -/

theorem outValid_eq_true_iff (s : State) : s.outputs.outValid = true ↔ s.state = .result :=
  beq_iff_eq

theorem outValid_eq_false_iff (s : State) : s.outputs.outValid = false ↔ s.state ≠ .result :=
  beq_eq_false_iff_ne

theorem inReady_eq_true_iff (s : State) : s.outputs.inReady = true ↔ s.state = .idle :=
  beq_iff_eq

/-- From the input handshake up to the row's latency no result stands: IDLE offers none, and the decode is in flight. -/
theorem edges_of_takes_not_result {s : State} {len : Len16} {data : Frame48} (ht : s.takes len data) {m : Nat}
    (hm : m ≤ latency (decode len data)) (hr : s.noResetFor m) : (edges m s).state ≠ .result := by
  cases m with
  | zero =>
    have ⟨idle, _⟩ := ht
    simp [idle]
  | succ m => exact (edges_of_takes_busy ht (Nat.succ_pos m) hm hr).2

/-- Settles O54: the decode is in flight up to its latency and in RESULT after it, and the result handshake enters IDLE. -/
theorem latencyByOutcome : Obligations.LatencyByOutcome := by
  unfold Obligations.LatencyByOutcome
  rintro s len data n ht rfl hr
  rw [← latency_decode] at hr ⊢
  have result := (edges_of_takes ht hr).1
  refine ⟨fun m hm => ?_, (outValid_eq_true_iff _).mpr result, fun noReset ready => ?_⟩
  · exact (outValid_eq_false_iff _).mpr (edges_of_takes_not_result ht hm (hr.mono (by omega)))
  · have given := edge_result_given result noReset ready
    rw [← edges_succ', Nat.add_right_comm] at given
    exact (inReady_eq_true_iff _).mpr (congrArg State.state given)

end Sys2Proof.Machine
end
